-- ==== Sys2Proof/Word.lean ====
section
/-! DEFINITION. The block's two number widths, the result types of the codec (00_scope.md R8) and the six state names (10_state.md R11). -/

namespace Sys2Proof

/-- `u8`: an unsigned number of 8 bits, bit 7 its most significant (00_scope.md R8). -/
abbrev Byte := BitVec 8

/-- `u16`: an unsigned number of 16 bits (00_scope.md R8). -/
abbrev Half := BitVec 16

/-- The result of an encoder: the frame, or `fail`, which carries no bytes (00_scope.md R8, 41_frame_codec.md R77). -/
inductive EncodeResult where
  | ok (frame : List Byte)
  | fail
  deriving DecidableEq, Repr

/-- The result of DECODE_FRAME (41_frame_codec.md R85). -/
inductive DecodeResult where
  | ok (cmd : Byte) (payload : List Byte)
  | invalid
  deriving DecidableEq, Repr

/-- The six values of the state variable `st`, in the source's order (10_state.md R11). -/
inductive RxState where
  | waitStart
  | waitLenLow
  | waitLenHigh
  | waitCommand
  | waitPayload
  | waitChecksum
  deriving DecidableEq, Repr

end Sys2Proof
end

