-- ==== Sys2Proof/Config.lean ====
section
/-! DEFINITION. The configuration of an instance of the block (10_state.md R17, 00_scope.md R7) and the values the spec
leaves open, as constants without a body. -/

namespace Sys2Proof

/-- An opaque token: nothing in the block looks inside it (00_scope.md R7 `SINK_CONTEXT`). -/
abbrev Token := Nat

/-- The SINK installed by INIT: which one it is, and whether its `write` returns (43_dispatch_boundary.md R126:
it "may itself block"; 93_implementation_defined.md U6). DESIGN CHOICE, log 11: a given sink always returns or never does. -/
structure Sink where
  id : Token
  returns : Bool
  deriving DecidableEq, Repr

/-- The DISPATCHER connected to the block (43_dispatch_boundary.md R120 item 3: a model treats it as an oracle, "or
fixes a particular DISPATCHER as a parameter"). DESIGN CHOICE, logs 9 and 10.
* `oracle`: any answer within the contract, a free value drawn anew at each call;
* `stub`: the spec's own STUB (R123);
* `fixed code extra`: a particular DISPATCHER that always answers `(code, extra)`;
* `silent`: one that never answers (93_implementation_defined.md U6). -/
inductive Dispatcher where
  | oracle
  | stub
  | fixed (code : Byte) (extra : List Byte)
  | silent
  deriving DecidableEq, Repr

/-- Every value INIT fixes or the implementation chooses (00_scope.md R7, 10_state.md R17). -/
structure Params where
  /-- `BUFFER_CAPACITY`, in payload bytes. -/
  capacity : Nat
  sink : Sink
  /-- `SINK_CONTEXT`. -/
  context : Token
  dispatcher : Dispatcher
  errOk : Byte
  errGeneral : Byte
  errInvalidFrame : Byte
  errBufferFull : Byte
  errVm : Byte
  /-- `MAX_ACK_EXTRA`. -/
  maxAckExtra : Nat
  deriving DecidableEq, Repr

/-- The code of the oracle DISPATCHER's `k`-th answer, to `(cmd, payload)`: a free value (43_dispatch_boundary.md R120
item 3; log 9). -/
opaque Config.answerCode : Nat → Byte → List Byte → Byte

/-- The extra payload of that answer before the contract's bound is applied: a free value (R120; log 9). -/
opaque Config.answerExtra : Nat → Byte → List Byte → List Byte

/-- `CMD_QUERY_STACK`: OPEN, the spec gives no number and no default (00_scope.md R7, 92_eei_decisions.md D6; log 5). -/
opaque Config.cmdQueryStack : Byte

/-- `CMD_QUERY_MEMORY`: OPEN (00_scope.md R7, D6; log 5). -/
opaque Config.cmdQueryMemory : Byte

/-- `CMD_QUERY_WORD`: OPEN (00_scope.md R7, D6; log 5). -/
opaque Config.cmdQueryWord : Byte

end Sys2Proof
end

