-- ==== Sys2Proof/Machine/Constants.lean ====
section
/-! DEFINITION. The constants the source fixes (00_scope.md R6) and the defaults of the parameters (R7). -/

namespace Sys2Proof.Machine

/-- `START`. -/
def startMarker : Byte := 0xA5#8

/-- `CRC_POLY`. -/
def crcPoly : Byte := 0x07#8

/-- `CRC_INIT`. -/
def crcInit : Byte := 0x00#8

/-- `MAX_PAYLOAD`: the largest payload ENCODE_FRAME accepts. -/
def maxPayload : Nat := 512

/-- `MIN_FRAME`: the shortest frame, in bytes. -/
def minFrame : Nat := 5

/-- `CMD_EXEC`. -/
def cmdExecCode : Byte := 0x10#8

/-- `CMD_PING`. -/
def cmdPingCode : Byte := 0x20#8

/-- `CMD_RESET`. -/
def cmdResetCode : Byte := 0xFF#8

/-- `ACK_LEN_BIAS` (90_conflicts.md C2; log 17). -/
def ackLenBias : Nat := 1

/-- The greatest legal BUFFER_CAPACITY (00_scope.md R7, 43_dispatch_boundary.md R127). -/
def maxCapacity : Nat := 512

/-- The greatest legal MAX_ACK_EXTRA (00_scope.md R7, 41_frame_codec.md R80). -/
def maxAckExtraLimit : Nat := 65534

/-- What FRAME_BUF_SIZE adds to BUFFER_CAPACITY (00_scope.md R7, 10_state.md R13). -/
def frameOverhead : Nat := 5

/-- The defaults of 00_scope.md R7 (log 7). The sink, its context and the DISPATCHER have no default in the spec:
DESIGN CHOICE, logs 8 and 9. -/
def defaultParams : Params where
  capacity := 512
  sink := { id := 0, returns := true }
  context := 0
  dispatcher := .oracle
  errOk := 0x00#8
  errGeneral := 0x01#8
  errInvalidFrame := 0x02#8
  errBufferFull := 0x03#8
  errVm := 0x04#8
  maxAckExtra := 65534

/-- `FRAME_BUF_SIZE` (00_scope.md R7, 10_state.md R13). -/
def frameBufSize (p : Params) : Nat := p.capacity + frameOverhead

end Sys2Proof.Machine
end

