-- ==== Sys2Proof/Machine/Checksum.lean ====
section
/-! DEFINITION. The checksum unit as a pure function (40_checksum.md). -/

namespace Sys2Proof.Machine

/-- One of the eight rounds of CRC8_UPDATE: shift towards bit 7, cut to 8 bits, with feedback of bit 7 (40_checksum.md R66). -/
def crc8Round (c : Byte) : Byte := if c.getLsbD 7 then (c <<< 1) ^^^ crcPoly else c <<< 1

/-- `k` rounds. -/
def crc8Rounds : Nat → Byte → Byte
  | 0, c => c
  | k + 1, c => crc8Rounds k (crc8Round c)

/-- `CRC8_UPDATE(c, b)` (40_checksum.md R66). -/
def crc8Update (c b : Byte) : Byte := crc8Rounds 8 (c ^^^ b)

/-- The accumulator after `bytes`, started from `c` (40_checksum.md R67, R71). -/
def crc8From (c : Byte) (bytes : List Byte) : Byte := bytes.foldl crc8Update c

/-- `CRC8(bytes)` (40_checksum.md R67): no final exclusive or, no bit reversal. -/
def crc8 (bytes : List Byte) : Byte := crc8From crcInit bytes

end Sys2Proof.Machine
end

