-- ==== Sys2Proof/Machine/Operands.lean ====
section
/-! DEFINITION. The operand forms of the spec's notation (00_scope.md R8): little-endian halves, elements and inclusive
slices of byte sequences, and the bytes of a word numbered as spec/opcode_table.json numbers its bits. -/

namespace Sys2Proof.Machine

/-- `le16(v)` of a natural number `v <= 65535`: `[v & 0xFF, (v >> 8) & 0xFF]` (00_scope.md R8, 20_memory.md R37). -/
def le16 (v : Nat) : List Byte := [BitVec.ofNat 8 v, BitVec.ofNat 8 (v >>> 8)]

/-- `from_le16(lo, hi) = zext_16(lo) | (zext_16(hi) << 8)` (00_scope.md R8). -/
def fromLe16 (lo hi : Byte) : Half := lo.setWidth 16 ||| (hi.setWidth 16 <<< 8)

/-- `s[i]` for `i < |s|` (00_scope.md R8); every use is guarded by a length test. -/
def byteAt (s : List Byte) (i : Nat) : Byte := s.getD i 0#8

/-- `s[i .. i + k - 1]`: the `k` elements of `s` from `i` on (00_scope.md R8). -/
def slice (s : List Byte) (i k : Nat) : List Byte := (s.drop i).take k

/-- The first `k` bytes of a word `w` whose bit 0 is the least significant bit of the first byte. -/
def wordBytes : Nat → Nat → List Byte
  | 0, _ => []
  | k + 1, w => BitVec.ofNat 8 w :: wordBytes k (w / 256)

/-- The first byte of a table word: every encoding has one; the bits the table does not give are 0. -/
def firstByte (w : Nat) : Byte := BitVec.ofNat 8 w

/-- The bytes after the first of a table word that is given `nbits` bits, in whole bytes. -/
def laterBytes (nbits w : Nat) : List Byte := wordBytes (nbits / 8 - 1) (w / 256)

end Sys2Proof.Machine
end

