-- ==== Sys2Proof/Machine/Codec.lean ====
section
/-! DEFINITION. The frame codec as pure functions (41_frame_codec.md). -/

namespace Sys2Proof.Machine

/-- The covered span of a frame: `[LEN_LO, LEN_HI, CMD or ERR] ++ rest` (30_encoding.md R55). -/
def frameBody (lenField : Nat) (code : Byte) (rest : List Byte) : List Byte := le16 lenField ++ code :: rest

/-- A whole frame: start marker, covered span, checksum (30_encoding.md R46, R47). -/
def frameBytes (lenField : Nat) (code : Byte) (rest : List Byte) : List Byte :=
  startMarker :: frameBody lenField code rest ++ [crc8 (frameBody lenField code rest)]

/-- The request frame of `cmd` and `payload` (30_encoding.md R46). -/
def requestFrame (cmd : Byte) (payload : List Byte) : List Byte := frameBytes payload.length cmd payload

/-- The acknowledgement frame of `code` and `extra`: its length field counts the code too (30_encoding.md R47, R50). -/
def ackFrame (code : Byte) (extra : List Byte) : List Byte := frameBytes (ackLenBias + extra.length) code extra

/-- `ENCODE_FRAME(cmd, payload)` (41_frame_codec.md R76 to R78). -/
def encodeFrame (cmd : Byte) (payload : List Byte) : EncodeResult :=
  if payload.length > maxPayload then .fail else .ok (requestFrame cmd payload)

/-- `ENCODE_ACK(code, extra)` under the bound MAX_ACK_EXTRA (41_frame_codec.md R79 to R81). -/
def encodeAck (maxExtra : Nat) (code : Byte) (extra : List Byte) : EncodeResult :=
  if extra.length > maxExtra then .fail else .ok (ackFrame code extra)

/-- `VERIFY_FRAME_CRC(buffer)`: fails closed below MIN_FRAME; byte 0 and the length field are not examined
(41_frame_codec.md R82, R83). -/
def verifyFrameCrc (buffer : List Byte) : Bool :=
  if buffer.length < minFrame then false
  else crc8 (slice buffer 1 (buffer.length - 2)) == byteAt buffer (buffer.length - 1)

/-- The declared length of a buffered frame, `buffer[1] + 256 * buffer[2]` (30_encoding.md R49). -/
def lengthField (buffer : List Byte) : Nat := (fromLe16 (byteAt buffer 1) (byteAt buffer 2)).toNat

/-- `DECODE_FRAME(buffer)` (41_frame_codec.md R85; 90_conflicts.md C5; log 18). -/
def decodeFrame (buffer : List Byte) : DecodeResult :=
  if buffer.length < minFrame then .invalid
  else if byteAt buffer 0 ≠ startMarker then .invalid
  else if lengthField buffer > maxPayload then .invalid
  else if buffer.length ≠ 5 + lengthField buffer then .invalid
  else if verifyFrameCrc buffer then .ok (byteAt buffer 3) (slice buffer 4 (lengthField buffer))
  else .invalid

/-- A reader of acknowledgements: the length field is `1 + X` and the whole frame is `4 + LEN` bytes (30_encoding.md R47,
R50, R56). The spec names no such operation; DEDUCED, log 25. -/
def decodeAckFrame (buffer : List Byte) : DecodeResult :=
  if buffer.length < minFrame then .invalid
  else if byteAt buffer 0 ≠ startMarker then .invalid
  else if buffer.length + ackLenBias ≠ 5 + lengthField buffer then .invalid
  else if verifyFrameCrc buffer then .ok (byteAt buffer 3) (slice buffer 4 (lengthField buffer - ackLenBias))
  else .invalid

end Sys2Proof.Machine
end

