-- ==== Sys2Proof/Machine/Flags.lean ====
section
/-! DEFINITION. The block has no flags (10_state.md R19). In their place stand the conditions the transition rows test
(the `cond` entries of spec/opcode_table.json, 30_encoding.md R61). -/

namespace Sys2Proof.Machine

/-- The byte opens a frame: `b & 0xFF = 0xA5` (RX.START against RX.DISCARD; 42_frame_receiver.md R97, R98). -/
def isStart (b : Byte) : Bool := b == startMarker

/-- The declared length fits: `lo + 256 * hi <= BUFFER_CAPACITY` (RX.LEN_HI against RX.LEN_HI.FULL; R100, R101: the
rejection is strict). -/
def lengthFits (capacity : Nat) (lo hi : Byte) : Bool := decide (lo.toNat + 256 * hi.toNat ≤ capacity)

/-- The declared length is zero (RX.CMD.EMPTY against RX.CMD; R102). -/
def payloadEmpty (len : Half) : Bool := len == 0#16

/-- This payload byte is the last: after `cur <- cur + 1`, `cur = len` (RX.PAYLOAD.LAST against RX.PAYLOAD; R103). -/
def lastPayloadByte (cur len : Half) : Bool := cur + 1#16 == len

end Sys2Proof.Machine
end

