-- ==== Sys2Proof/Syntax.lean ====
section
/-! DEFINITION. The instruction set: one constructor per row of spec/opcode_table.json (00_scope.md R5, 30_encoding.md R61). -/

namespace Sys2Proof

/-- One constructor per row of the table, in its order. A transition row carries the byte it takes, unless the row
fixes it (RX.START). -/
inductive Instr where
  /-- CRC8_UPDATE, R66 -/
  | crc8Update (c b : Byte)
  /-- CRC8, R67 -/
  | crc8 (bytes : List Byte)
  /-- ENCODE_FRAME, R76 -/
  | encodeFrame (cmd : Byte) (payload : List Byte)
  /-- ENCODE_ACK, R79; an absent extra payload is `[]` -/
  | encodeAck (code : Byte) (extra : List Byte)
  /-- VERIFY_FRAME_CRC, R82 -/
  | verifyFrameCrc (buffer : List Byte)
  /-- DECODE_FRAME, R85 -/
  | decodeFrame (buffer : List Byte)
  /-- FEED_BYTE, R96 -/
  | feedByte (b : Byte)
  /-- RESET (the operation), R128 -/
  | reset
  /-- INIT, R127; `none` is an absent sink -/
  | init (capacity : Nat) (sink : Option Sink) (context : Token)
  /-- RX.DISCARD, R97 -/
  | rxDiscard (b : Byte)
  /-- RX.START, R98 -/
  | rxStart
  /-- RX.LEN_LO, R99 -/
  | rxLenLo (b : Byte)
  /-- RX.LEN_HI, R100 -/
  | rxLenHi (b : Byte)
  /-- RX.LEN_HI.FULL, R100 -/
  | rxLenHiFull (b : Byte)
  /-- RX.CMD, R102 -/
  | rxCmd (b : Byte)
  /-- RX.CMD.EMPTY, R102 -/
  | rxCmdEmpty (b : Byte)
  /-- RX.PAYLOAD, R103 -/
  | rxPayload (b : Byte)
  /-- RX.PAYLOAD.LAST, R103 -/
  | rxPayloadLast (b : Byte)
  /-- RX.CRC, R104 -/
  | rxCrc (b : Byte)
  /-- REQ, R46: a request frame on its way to the block -/
  | req (cmd : Byte) (payload : List Byte)
  /-- ACK, R47: an acknowledgement frame looped back to the block -/
  | ack (code : Byte) (extra : List Byte)
  /-- CMD.EXEC, R51 -/
  | cmdExec
  /-- CMD.PING, R51 -/
  | cmdPing
  /-- CMD.QUERY_STACK, R51 -/
  | cmdQueryStack
  /-- CMD.QUERY_MEMORY, R51 -/
  | cmdQueryMemory
  /-- CMD.QUERY_WORD, R51 -/
  | cmdQueryWord
  /-- CMD.RESET, R51 -/
  | cmdReset
  /-- ERR.OK, R53: the code in byte 3 of an acknowledgement that carries `extra`, and so for the four codes after it -/
  | errOk (extra : List Byte)
  /-- ERR.GENERAL_ERROR, R53 -/
  | errGeneral (extra : List Byte)
  /-- ERR.INVALID_FRAME, R53 -/
  | errInvalidFrame (extra : List Byte)
  /-- ERR.BUFFER_FULL, R53; raised by the block alone (R53), which records nothing (R136), so the row has no operand -/
  | errBufferFull
  /-- ERR.VM_ERROR, R53 -/
  | errVm (extra : List Byte)
  deriving DecidableEq, Repr

end Sys2Proof
end

