-- ==== Sys2Proof/WellFormed.lean ====
section
/-! DEFINITION. Which instruction terms stand for something the table has, and which parameter values are legal, and the contract of
the collaborators. -/

namespace Sys2Proof

/-- An instruction is well formed when its operands lie in the ranges of its row: RX.DISCARD takes every byte but the start
marker (42_frame_receiver.md R97); a REQ carries at most 512 payload bytes (30_encoding.md R46; a longer one is
a foreign sender's, and is fed all the same, R49); an ACK, and so a response, at most 65534 extra bytes (R47, 41_frame_codec.md R80); INIT needs `capacity <= 512` and a sink
(43_dispatch_boundary.md R127). The operations take any operands. -/
def Instr.wf : Instr → Bool
  | .rxDiscard b => b != Machine.startMarker
  | .req _ payload => decide (payload.length ≤ Machine.maxPayload)
  | .ack _ extra => decide (extra.length ≤ Machine.maxAckExtraLimit)
  | .init capacity sink _ => decide (capacity ≤ Machine.maxCapacity) && sink.isSome
  | .errOk extra => decide (extra.length ≤ Machine.maxAckExtraLimit)
  | .errGeneral extra => decide (extra.length ≤ Machine.maxAckExtraLimit)
  | .errInvalidFrame extra => decide (extra.length ≤ Machine.maxAckExtraLimit)
  | .errVm extra => decide (extra.length ≤ Machine.maxAckExtraLimit)
  | .crc8Update _ _ => true
  | .crc8 _ => true
  | .encodeFrame _ _ => true
  | .encodeAck _ _ => true
  | .verifyFrameCrc _ => true
  | .decodeFrame _ => true
  | .feedByte _ => true
  | .reset => true
  | .rxStart => true
  | .rxLenLo _ => true
  | .rxLenHi _ => true
  | .rxLenHiFull _ => true
  | .rxCmd _ => true
  | .rxCmdEmpty _ => true
  | .rxPayload _ => true
  | .rxPayloadLast _ => true
  | .rxCrc _ => true
  | .cmdExec => true
  | .cmdPing => true
  | .cmdQueryStack => true
  | .cmdQueryMemory => true
  | .cmdQueryWord => true
  | .cmdReset => true
  | .errBufferFull => true

/-- The five `ERR_*` values, in the order of 00_scope.md R7. -/
def Params.errCodes (p : Params) : List Byte :=
  [p.errOk, p.errGeneral, p.errInvalidFrame, p.errBufferFull, p.errVm]

/-- The legal ranges of 00_scope.md R7: capacity at most 512, MAX_ACK_EXTRA at most 65534, the five codes pairwise distinct. -/
def Params.wf (p : Params) : Bool :=
  decide (p.capacity ≤ Machine.maxCapacity) && decide (p.maxAckExtra ≤ Machine.maxAckExtraLimit) && decide p.errCodes.Nodup

/-- The contract of the SINK and the DISPATCHER: the SINK returns (43_dispatch_boundary.md R126), the DISPATCHER answers, and
with at most MAX_ACK_EXTRA extra bytes (R120 items 1 and 2). -/
def Params.contract (p : Params) : Bool :=
  p.sink.returns &&
    match p.dispatcher with
    | .oracle => true
    | .stub => true
    | .fixed _ extra => decide (extra.length ≤ p.maxAckExtra)
    | .silent => false

end Sys2Proof
end

