-- ==== Sys2Proof/Decode.lean ====
section
/-! DEFINITION. The decoders and the encoder. The block has four encodings (30_encoding.md R61): a byte at RX, read by
the receiver's state; a whole request frame; a whole acknowledgement frame; a command code. The nine operations have no
bit pattern. -/

namespace Sys2Proof

/-- The transition row a byte at RX selects (42_frame_receiver.md R96 to R104; the `state` and `cond` entries of the table's
rx_transition rows). `fits` says whether the length that `b` would complete is at most BUFFER_CAPACITY; it is looked at in
WaitLenHigh only. -/
def selectTransition (st : RxState) (fits : Bool) (len cur : Half) (b : Byte) : Instr :=
  match st with
  | .waitStart => if Machine.isStart b then .rxStart else .rxDiscard b
  | .waitLenLow => .rxLenLo b
  | .waitLenHigh => if fits then .rxLenHi b else .rxLenHiFull b
  | .waitCommand => if Machine.payloadEmpty len then .rxCmdEmpty b else .rxCmd b
  | .waitPayload => if Machine.lastPayloadByte cur len then .rxPayloadLast b else .rxPayload b
  | .waitChecksum => .rxCrc b

/-- The command-code rows with a number (30_encoding.md R51). -/
def decodeNumberedCode (b : Byte) : Option Instr :=
  if b = Machine.cmdExecCode then some .cmdExec
  else if b = Machine.cmdPingCode then some .cmdPing
  else if b = Machine.cmdResetCode then some .cmdReset
  else none

/-- The command-code row of byte 3 of a request (30_encoding.md R51, R61): a row with a number, or one of the three QUERY rows
by its open parameter. The parameters may have any values; of two equal codes the earlier row is read (log 5). -/
def decodeCmdCode (b : Byte) : Option Instr :=
  match decodeNumberedCode b with
  | some i => some i
  | none =>
    if b = Config.cmdQueryStack then some .cmdQueryStack
    else if b = Config.cmdQueryMemory then some .cmdQueryMemory
    else if b = Config.cmdQueryWord then some .cmdQueryWord
    else none

/-- A frame travelling towards the block, read as the format REQ (30_encoding.md R46, R56: the direction of travel says which
format a frame has). -/
def decodeRequestFrame (bytes : List Byte) : Option Instr :=
  match Machine.decodeFrame bytes with
  | .ok cmd payload => some (.req cmd payload)
  | .invalid => none

/-- A frame travelling away from the block, read as the format ACK (30_encoding.md R47, R56; log 25). -/
def decodeAcknowledgement (bytes : List Byte) : Option Instr :=
  match Machine.decodeAckFrame bytes with
  | .ok code extra => some (.ack code extra)
  | .invalid => none

/-- The error-code row of byte 3 of an acknowledgement, under the instance's code values, by that byte alone
(30_encoding.md R53, R61); the row of BUFFER_FULL has no operand for extra bytes. -/
def decodeErrCode (p : Params) (code : Byte) (extra : List Byte) : Option Instr :=
  if code = p.errOk then some (.errOk extra)
  else if code = p.errGeneral then some (.errGeneral extra)
  else if code = p.errInvalidFrame then some (.errInvalidFrame extra)
  else if code = p.errBufferFull then some .errBufferFull
  else if code = p.errVm then some (.errVm extra)
  else none

/-- An acknowledgement read as the response it reports. -/
def decodeResponse (p : Params) (bytes : List Byte) : Option Instr :=
  match Machine.decodeAckFrame bytes with
  | .ok code extra => decodeErrCode p code extra
  | .invalid => none

/-- One byte of the table with no receiver state given: a numbered command code if it is one, else what the reset state makes of it
(RX.START or RX.DISCARD). The rows RX.START, REQ and ACK share the byte 0xA5: DESIGN CHOICE, log 2. -/
def decodeTableByte (b : Byte) : Instr :=
  (decodeNumberedCode b).getD (selectTransition .waitStart false 0#16 0#16 b)

/-- Two or more bytes as the beginning of a request frame whose missing bytes are 0 (`byteAt` reads a missing length byte
as 0 too; log 2). -/
def decodeFrameStart (bytes : List Byte) : Option Instr :=
  decodeRequestFrame (bytes ++ List.replicate (5 + Machine.lengthField bytes - bytes.length) 0#8)

/-- A coded instruction with no receiver state given: one byte by `decodeTableByte`, more by `decodeFrameStart`. -/
def decodeCoded (first : Byte) (more : List Byte) : Option Instr :=
  match more with
  | [] => some (decodeTableByte first)
  | _ :: _ => decodeFrameStart (first :: more)

/-- The instruction read from a table word of `nbits` bits, bit 0 the least significant bit of the first byte. -/
def decodeTableWord (nbits w : Nat) : Option Instr :=
  decodeCoded (Machine.firstByte w) (Machine.laterBytes nbits w)

/-- The bytes of an instruction, from the same tables: a transition is its byte; REQ and ACK are their frames; a command
code is its byte; an error code is the acknowledgement that carries it at byte 3. The operations have no bit pattern
(30_encoding.md R61). -/
def encode (p : Params) : Instr → Option (List Byte)
  | .crc8Update _ _ => none
  | .crc8 _ => none
  | .encodeFrame _ _ => none
  | .encodeAck _ _ => none
  | .verifyFrameCrc _ => none
  | .decodeFrame _ => none
  | .feedByte _ => none
  | .reset => none
  | .init _ _ _ => none
  | .rxDiscard b => some [b]
  | .rxStart => some [Machine.startMarker]
  | .rxLenLo b => some [b]
  | .rxLenHi b => some [b]
  | .rxLenHiFull b => some [b]
  | .rxCmd b => some [b]
  | .rxCmdEmpty b => some [b]
  | .rxPayload b => some [b]
  | .rxPayloadLast b => some [b]
  | .rxCrc b => some [b]
  | .req cmd payload => some (Machine.requestFrame cmd payload)
  | .ack code extra => some (Machine.ackFrame code extra)
  | .cmdExec => some [Machine.cmdExecCode]
  | .cmdPing => some [Machine.cmdPingCode]
  | .cmdQueryStack => some [Config.cmdQueryStack]
  | .cmdQueryMemory => some [Config.cmdQueryMemory]
  | .cmdQueryWord => some [Config.cmdQueryWord]
  | .cmdReset => some [Machine.cmdResetCode]
  | .errOk extra => some (Machine.ackFrame p.errOk extra)
  | .errGeneral extra => some (Machine.ackFrame p.errGeneral extra)
  | .errInvalidFrame extra => some (Machine.ackFrame p.errInvalidFrame extra)
  | .errBufferFull => some (Machine.ackFrame p.errBufferFull [])
  | .errVm extra => some (Machine.ackFrame p.errVm extra)

end Sys2Proof
end

