-- ==== Sys2Proof/Machine/State.lean ====
section
/-! DEFINITION. The state of one instance of the block, its faults and refusals, and the state after reset. -/

namespace Sys2Proof.Machine

/-- The frame buffer: the defined positions with their bytes, positions strictly rising (10_state.md R13). A position that is
not listed holds no value (R25; 93_implementation_defined.md U1; log 15). -/
abbrev Memory := List Host.Cell

/-- The canonical form of the frame buffer. -/
abbrev Memory.wf (m : Memory) : Prop := m.Pairwise (fun x y => x.1 < y.1)

/-- One invocation `write(context, bytes, length)` of a SINK (43_dispatch_boundary.md R125; log 22). -/
structure SinkWrite where
  sink : Token
  context : Token
  bytes : List Byte
  deriving DecidableEq, Repr

/-- One request of the DISPATCHER, `(cmd, payload)` (43_dispatch_boundary.md R121). -/
structure DispatchCall where
  cmd : Byte
  payload : List Byte
  deriving DecidableEq, Repr

/-- What an operation hands back to its caller (the "Result" line of its rule; MODEL's own, log 21).
* `nothing`: FEED_BYTE and RESET (R96, R128);
* `made`: INIT, an instance of the block (R127);
* the others: the results of the pure operations. -/
inductive Ret where
  | nothing
  | made
  | byte (v : Byte)
  | encoded (r : EncodeResult)
  | verdict (valid : Bool)
  | decoded (r : DecodeResult)
  deriving DecidableEq, Repr

/-- What the environment may present to the block (43_dispatch_boundary.md R129; logs 1 and 14).
* `rx b`: one byte from the transport at port RX, which is FEED_BYTE(b);
* `coded first more`: the bytes of an encoding of the table, of which there is at least one;
* `op i`: an operation request at the port of its own (RST, CFG, the codec ports), which has no bit pattern;
* `powerCycle`: power removed and applied again, a fresh INIT with the same arguments (70_reset_and_hazards.md R155). -/
inductive Request where
  | rx (b : Byte)
  | coded (first : Byte) (more : List Byte)
  | op (i : Instr)
  | powerCycle
  deriving DecidableEq, Repr

/-- The state of one instance (10_state.md R10, R17, R20) and the model's own fields `ret`, `pending` and `draws`. -/
structure State where
  /-- the state variable, R11 -/
  st : RxState
  /-- the frame buffer, R13 -/
  buf : Memory
  /-- the fill count of the buffer, R10 -/
  n : Half
  /-- the declared payload length, R14 -/
  len : Half
  /-- the declared command byte, R15 -/
  cmd : Byte
  /-- the payload cursor, R16 -/
  cur : Half
  /-- the configuration fixed at INIT, R17 -/
  cfg : Params
  /-- the output trace TX, oldest first, R20 -/
  tx : List SinkWrite
  /-- the dispatch log DSP, oldest first, R20 -/
  dsp : List DispatchCall
  /-- the result of the last operation; MODEL's own, log 21 -/
  ret : Ret
  /-- the requests not yet taken, oldest first; MODEL's own, log 1 -/
  pending : List Request
  /-- how many answers the oracle DISPATCHER has been asked for; MODEL's own, log 9 -/
  draws : Nat
  deriving DecidableEq, Repr

/-- Why a step stops with a fault. None comes from the block's rules, which have no faults (60_exceptions.md R135). -/
inductive Fault where
  /-- Raised by a read of a buffer position that holds no value (10_state.md R13). Safe: R24 rules it out in every
  reachable state. -/
  | undefinedByte
  /-- Raised by an append at or past FRAME_BUF_SIZE (20_memory.md R30, R32). Safe: R24 rules it out in every reachable
  state. -/
  | bufferOverflow
  /-- Raised by an emit to a SINK that never returns: the operation has no next step (93_implementation_defined.md U6,
  "stuck"). Safe. -/
  | sinkNeverReturns
  /-- Raised by a request of a DISPATCHER that never answers (93_implementation_defined.md U6, "stuck"). Safe. -/
  | dispatcherNeverReturns
  deriving DecidableEq, Repr

/-- Why the model gives a request no meaning. -/
inductive Refusal where
  /-- Raised by an arm of exec that has no meaning yet. Safe. -/
  | notModelled (mnemonic : String)
  /-- Raised by a transition row in a state that does not select it: FEED_BYTE performs the selected transition and no other
  (42_frame_receiver.md R96; log 3). Safe. -/
  | notSelected
  /-- Raised by INIT with a capacity above 512 or an absent sink: "no instance results and no rule of this spec applies"
  (43_dispatch_boundary.md R127; log 13). Safe. -/
  | initRejected
  /-- Raised by an emit of `fail`: "the block's behaviour is not defined" (43_dispatch_boundary.md R125, 93 U4; log 12). Safe. -/
  | emitOfFail
  deriving DecidableEq, Repr

/-- The state right after power is applied, which is the state after INIT (10_state.md R25, 70_reset_and_hazards.md R155) with
the default parameters; what the spec gives no value for is named in logs 1, 8, 9 and 21. -/
def State.reset : State where
  st := .waitStart
  buf := []
  n := 0#16
  len := 0#16
  cmd := 0#8
  cur := 0#16
  cfg := defaultParams
  tx := []
  dsp := []
  ret := .nothing
  pending := []
  draws := 0

end Sys2Proof.Machine
end

