-- ==== Sys2Proof/Machine/Ops.lean ====
section
/-! DEFINITION. The named operations over the buffer, the registers and the boundary, the raising of an error response, and the
fetching of a request. -/

namespace Sys2Proof.Machine

/-- What every meaning answers. -/
abbrev Result := Host.Outcome State Fault Refusal

/-- Do `f` after `r`, unless `r` stopped. -/
def andThen (r : Result) (f : State → Result) : Result :=
  match r with
  | .next s => f s
  | .fault e => .fault e
  | .refused e => .refused e

/-! ### The frame buffer -/

/-- The byte at a position, if the position holds one (20_memory.md R34). -/
def Memory.read : Memory → Nat → Option Byte
  | [], _ => none
  | (k, v) :: m, a => if k = a then some v else Memory.read m a

/-- Store a byte at a position, keeping positions rising. -/
def Memory.write : Memory → Nat → Byte → Memory
  | [], a, b => [(a, b)]
  | (k, v) :: m, a, b =>
    if a < k then (a, b) :: (k, v) :: m
    else if a = k then (a, b) :: m
    else (k, v) :: Memory.write m a b

/-- The `k` bytes from position `a` on, if all of them hold a value. -/
def Memory.readRange (m : Memory) : Nat → Nat → Option (List Byte)
  | _, 0 => some []
  | a, k + 1 =>
    match m.read a, Memory.readRange m (a + 1) k with
    | some b, some bs => some (b :: bs)
    | _, _ => none

/-- `append(b)`: `buf[n] <- b; n <- n + 1` (20_memory.md R32). A position outside the buffer does not exist. -/
def State.append (b : Byte) (s : State) : Result :=
  if s.n.toNat < frameBufSize s.cfg then .next { s with buf := s.buf.write s.n.toNat b, n := s.n + 1#16 }
  else .fault .bufferOverflow

/-- `clear()`: `n <- 0`; no position holds a byte afterwards (20_memory.md R33). -/
def State.clear (s : State) : State := { s with buf := [], n := 0#16 }

/-- `reinit()` (10_state.md R22). -/
def State.reinit (s : State) : State :=
  { s with st := .waitStart, buf := [], n := 0#16, len := 0#16, cmd := 0#8, cur := 0#16 }

/-! ### The registers -/

/-- `st <- S`. -/
def State.goto (st : RxState) (s : State) : State := { s with st := st }

/-- `cmd <- b; cur <- 0` (42_frame_receiver.md R102). -/
def State.takeCommand (b : Byte) (s : State) : State := { s with cmd := b, cur := 0#16 }

/-- `cur <- cur + 1` (42_frame_receiver.md R103). -/
def State.advance (s : State) : State := { s with cur := s.cur + 1#16 }

/-- `from_le16(buf[1], buf[2])`, if both positions hold a byte (20_memory.md R37). -/
def Memory.declaredLength (m : Memory) : Option Half :=
  match m.read 1, m.read 2 with
  | some lo, some hi => some (fromLe16 lo hi)
  | _, _ => none

/-- `len <- from_le16(buf[1], buf[2])` (10_state.md R14, 42_frame_receiver.md R100). -/
def State.composeLength (s : State) : Result :=
  match s.buf.declaredLength with
  | some v => .next { s with len := v }
  | none => .fault .undefinedByte

/-- The operation hands `r` back to its caller. -/
def State.returning (r : Ret) (s : State) : State := { s with ret := r }

/-! ### The boundary -/

/-- `emit(r)` (43_dispatch_boundary.md R125): one `write` of the SINK, one element of TX. -/
def State.emit (r : EncodeResult) (s : State) : Result :=
  match r with
  | .ok bytes =>
    if s.cfg.sink.returns then
      .next { s with tx := s.tx ++ [{ sink := s.cfg.sink.id, context := s.cfg.context, bytes := bytes }] }
    else .fault .sinkNeverReturns
  | .fail => .refused .emitOfFail

/-- `emit(ENCODE_ACK(code, extra))`. -/
def State.respond (code : Byte) (extra : List Byte) (s : State) : Result :=
  s.emit (encodeAck s.cfg.maxAckExtra code extra)

/-- Raising a response, the block's form of taking an exception (60_exceptions.md R141): build the acknowledgement, emit it,
`reinit()`. It saves nothing and control goes nowhere; there is no return operation (R142). -/
def State.raiseResponse (code : Byte) (extra : List Byte) (s : State) : Result :=
  andThen (s.respond code extra) (fun t => .next t.reinit)

/-- STUB, the spec's own DISPATCHER (43_dispatch_boundary.md R123). -/
def stubAnswer (p : Params) (cmd : Byte) : Byte × List Byte :=
  if cmd = cmdPingCode then (p.errOk, [])
  else if cmd = cmdResetCode then (p.errOk, [])
  else (p.errGeneral, [])

/-- The answer of the connected DISPATCHER (43_dispatch_boundary.md R120). The oracle's extra payload is cut to the
contract's bound, so that it is any answer within the contract (log 9). -/
def State.answer (s : State) (cmd : Byte) (payload : List Byte) : Option (Byte × List Byte) :=
  match s.cfg.dispatcher with
  | .oracle =>
    some (Config.answerCode s.draws cmd payload, (Config.answerExtra s.draws cmd payload).take s.cfg.maxAckExtra)
  | .stub => some (stubAnswer s.cfg cmd)
  | .fixed code extra => some (code, extra)
  | .silent => none

/-- `DSP <- DSP ++ [(cmd, payload)]`, and one answer drawn. -/
def State.logDispatch (cmd : Byte) (payload : List Byte) (s : State) : State :=
  { s with dsp := s.dsp ++ [{ cmd := cmd, payload := payload }], draws := s.draws + 1 }

/-- `Dispatch(cmd, payload)` and the emission of its answer (42_frame_receiver.md R108, 43_dispatch_boundary.md R120). -/
def State.dispatch (cmd : Byte) (payload : List Byte) (s : State) : Result :=
  match s.answer cmd payload with
  | some (code, extra) => (s.logDispatch cmd payload).respond code extra
  | none => .fault .dispatcherNeverReturns

/-! ### Requests -/

/-- The transition row that the byte `b` selects now (42_frame_receiver.md R96; 30_encoding.md R61). It has no answer only in
WaitLenHigh with no length octet in the buffer, which R24 rules out. -/
def State.decodeByte (s : State) (b : Byte) : Option Instr :=
  match s.st with
  | .waitLenHigh =>
    match s.buf.read 1 with
    | some lo => some (selectTransition s.st (lengthFits s.cfg.capacity lo b) s.len s.cur b)
    | none => none
  | _ => some (selectTransition s.st false s.len s.cur b)

/-- The instruction that coded bytes stand for in the receiver's state: one byte is a numbered command code or the row it
selects now; more are a request frame, if they are one (log 2). -/
def State.decodeCoded (s : State) (first : Byte) (more : List Byte) : Option Instr :=
  match more with
  | [] =>
    match decodeNumberedCode first with
    | some i => some i
    | none => s.decodeByte first
  | _ :: _ => decodeFrameStart (first :: more)

/-- The instruction a request stands for, and the requests it leaves to be taken next (43_dispatch_boundary.md R129; a power
cycle is a fresh INIT with the same arguments, 70_reset_and_hazards.md R155). Coded bytes that are no row's encoding are bytes
at RX like any others: the first is fed now, the others follow it (30_encoding.md R59; 93_implementation_defined.md U13). -/
def State.decodeRequest (s : State) : Request → Instr × List Request
  | .rx b => (.feedByte b, [])
  | .coded first more =>
    match s.decodeCoded first more with
    | some i => (i, [])
    | none => (.feedByte first, more.map .rx)
  | .op i => (i, [])
  | .powerCycle => (.init s.cfg.capacity (some s.cfg.sink) s.cfg.context, [])

/-- The next instruction and the state in which it is performed: the request is gone, what it leaves stands in its place. -/
def State.fetch (s : State) : Option (Instr × State) :=
  match s.pending with
  | [] => none
  | r :: rest => some ((s.decodeRequest r).1, { s with pending := (s.decodeRequest r).2 ++ rest })

/-- Put a request in front of the others. -/
def State.present (r : Request) (s : State) : State := { s with pending := r :: s.pending }

end Sys2Proof.Machine
end

