-- ==== Sys2Proof/Machine/ExecBoundary.lean ====
section
/-! DEFINITION. The meanings of RESET and INIT (43_dispatch_boundary.md R127, R128). -/

namespace Sys2Proof.Machine

/-- RESET (R128): `reinit()` and nothing else; no result (log 19). -/
def execReset (s : State) : Result := .next (s.reinit.returning .nothing)

/-- The assignments of INIT (R127): the configuration, `reinit()`, empty TX and DSP. The error codes, MAX_ACK_EXTRA and the
connected DISPATCHER are no operands of INIT and stay. -/
def State.construct (capacity : Nat) (sink : Sink) (context : Token) (s : State) : State :=
  { s.reinit with
    cfg := { s.cfg with capacity := capacity, sink := sink, context := context }
    tx := []
    dsp := []
    ret := .made }

/-- INIT (R127): refused for a capacity above 512 or an absent sink (log 13). -/
def execInit (capacity : Nat) (sink : Option Sink) (context : Token) (s : State) : Result :=
  match sink with
  | some k => if capacity ≤ maxCapacity then .next (s.construct capacity k context) else .refused .initRejected
  | none => .refused .initRejected

end Sys2Proof.Machine
end

