-- ==== Sys2Proof/Machine/ExecCodec.lean ====
section
/-! DEFINITION. The meanings of the pure operations: they hand a value back and change nothing else (20_memory.md R41). -/

namespace Sys2Proof.Machine

/-- CRC8_UPDATE (40_checksum.md R66). -/
def execCrc8Update (c b : Byte) (s : State) : Result := .next (s.returning (.byte (crc8Update c b)))

/-- CRC8 (40_checksum.md R67). -/
def execCrc8 (bytes : List Byte) (s : State) : Result := .next (s.returning (.byte (crc8 bytes)))

/-- ENCODE_FRAME (41_frame_codec.md R76). -/
def execEncodeFrame (cmd : Byte) (payload : List Byte) (s : State) : Result :=
  .next (s.returning (.encoded (encodeFrame cmd payload)))

/-- ENCODE_ACK (41_frame_codec.md R79), under the configured MAX_ACK_EXTRA (R80). -/
def execEncodeAck (code : Byte) (extra : List Byte) (s : State) : Result :=
  .next (s.returning (.encoded (encodeAck s.cfg.maxAckExtra code extra)))

/-- VERIFY_FRAME_CRC (41_frame_codec.md R82). -/
def execVerifyFrameCrc (buffer : List Byte) (s : State) : Result :=
  .next (s.returning (.verdict (verifyFrameCrc buffer)))

/-- DECODE_FRAME (41_frame_codec.md R85). -/
def execDecodeFrame (buffer : List Byte) (s : State) : Result :=
  .next (s.returning (.decoded (decodeFrame buffer)))

end Sys2Proof.Machine
end

