-- ==== Sys2Proof/Machine/ExecReceiver.lean ====
section
/-! DEFINITION. FEED_BYTE and the ten receiver transitions (42_frame_receiver.md). Each rule is written once, from its
pseudocode; FEED_BYTE performs rule R100, R102 or R103 whole, and a transition row performs its own branch of it. -/

namespace Sys2Proof.Machine

/-! ### The rules -/

/-- R97: nothing. -/
def discardByte (s : State) : Result := .next s

/-- R98: `clear(); append(0xA5); st <- WaitLenLow`. -/
def openFrame (s : State) : Result :=
  andThen (s.clear.append startMarker) (fun t => .next (t.goto .waitLenLow))

/-- R99: `append(b); st <- WaitLenHigh`. -/
def takeLenLow (b : Byte) (s : State) : Result :=
  andThen (s.append b) (fun t => .next (t.goto .waitLenHigh))

/-- The first two lines of R100: `append(b); len <- buf[1] + 256 * buf[2]`. -/
def takeLength (b : Byte) (s : State) : Result := andThen (s.append b) State.composeLength

/-- R100 when the length fits: `st <- WaitCommand`. -/
def acceptLength (s : State) : Result := .next (s.goto .waitCommand)

/-- R100 when it does not: the BUFFER_FULL response is raised, with no extra payload. -/
def rejectLength (s : State) : Result := s.raiseResponse s.cfg.errBufferFull []

/-- R100, whole. -/
def takeLenHigh (b : Byte) (s : State) : Result :=
  andThen (takeLength b s) (fun t => if t.len.toNat > t.cfg.capacity then rejectLength t else acceptLength t)

/-- The first three lines of R102: `append(b); cmd <- b; cur <- 0`. -/
def storeCommand (b : Byte) (s : State) : Result :=
  andThen (s.append b) (fun t => .next (t.takeCommand b))

/-- R102, whole. -/
def takeCommandByte (b : Byte) (s : State) : Result :=
  andThen (storeCommand b s)
    (fun t => .next (t.goto (if payloadEmpty t.len then .waitChecksum else .waitPayload)))

/-- The first two lines of R103: `append(b); cur <- cur + 1`. -/
def storePayload (b : Byte) (s : State) : Result :=
  andThen (s.append b) (fun t => .next t.advance)

/-- R103, whole. -/
def takePayloadByte (b : Byte) (s : State) : Result :=
  andThen (storePayload b s) (fun t => .next (if t.cur = t.len then t.goto .waitChecksum else t))

/-- `complete_frame()` (R108): the checksum is checked first; only a valid frame reaches the DISPATCHER. -/
def completeFrame (s : State) : Result :=
  match s.buf.readRange 0 s.n.toNat with
  | none => .fault .undefinedByte
  | some frame =>
    if verifyFrameCrc frame then
      match s.buf.readRange 4 s.len.toNat with
      | none => .fault .undefinedByte
      | some payload => s.dispatch s.cmd payload
    else s.respond s.cfg.errInvalidFrame []

/-- R104: `append(b); complete_frame(); reinit()`. -/
def takeChecksum (b : Byte) (s : State) : Result :=
  andThen (andThen (s.append b) completeFrame) (fun t => .next t.reinit)

/-- FEED_BYTE's selection (R96): by the value of `st` and nothing else, and in WaitStart by the byte. -/
def feed (b : Byte) (s : State) : Result :=
  match s.st with
  | .waitStart => if isStart b then openFrame s else discardByte s
  | .waitLenLow => takeLenLow b s
  | .waitLenHigh => takeLenHigh b s
  | .waitCommand => takeCommandByte b s
  | .waitPayload => takePayloadByte b s
  | .waitChecksum => takeChecksum b s

/-- One FEED_BYTE per byte, in order (30_encoding.md R60). -/
def feedAll : List Byte → State → Result
  | [], s => .next s
  | b :: bs, s => andThen (feed b s) (feedAll bs)

/-- Perform `rule` if the byte `b` selects the row `i` now. -/
def whenSelected (i : Instr) (b : Byte) (rule : State → Result) (s : State) : Result :=
  if s.decodeByte b = some i then rule (s.returning .nothing) else .refused .notSelected

/-! ### The meanings -/

/-- FEED_BYTE (R96): no result. -/
def execFeedByte (b : Byte) (s : State) : Result := feed b (s.returning .nothing)

/-- RX.DISCARD (R97). -/
def execRxDiscard (b : Byte) (s : State) : Result := whenSelected (.rxDiscard b) b discardByte s

/-- RX.START (R98). -/
def execRxStart (s : State) : Result := whenSelected .rxStart startMarker openFrame s

/-- RX.LEN_LO (R99). -/
def execRxLenLo (b : Byte) (s : State) : Result := whenSelected (.rxLenLo b) b (takeLenLow b) s

/-- RX.LEN_HI (R100, the length fits). -/
def execRxLenHi (b : Byte) (s : State) : Result :=
  whenSelected (.rxLenHi b) b (fun t => andThen (takeLength b t) acceptLength) s

/-- RX.LEN_HI.FULL (R100, the length does not fit). -/
def execRxLenHiFull (b : Byte) (s : State) : Result :=
  whenSelected (.rxLenHiFull b) b (fun t => andThen (takeLength b t) rejectLength) s

/-- RX.CMD (R102, a payload follows). -/
def execRxCmd (b : Byte) (s : State) : Result :=
  whenSelected (.rxCmd b) b (fun t => andThen (storeCommand b t) (fun u => .next (u.goto .waitPayload))) s

/-- RX.CMD.EMPTY (R102, the declared length is zero). -/
def execRxCmdEmpty (b : Byte) (s : State) : Result :=
  whenSelected (.rxCmdEmpty b) b (fun t => andThen (storeCommand b t) (fun u => .next (u.goto .waitChecksum))) s

/-- RX.PAYLOAD (R103, more payload is due). -/
def execRxPayload (b : Byte) (s : State) : Result := whenSelected (.rxPayload b) b (storePayload b) s

/-- RX.PAYLOAD.LAST (R103, this byte is the last). -/
def execRxPayloadLast (b : Byte) (s : State) : Result :=
  whenSelected (.rxPayloadLast b) b (fun t => andThen (storePayload b t) (fun u => .next (u.goto .waitChecksum))) s

/-- RX.CRC (R104, R108). -/
def execRxCrc (b : Byte) (s : State) : Result := whenSelected (.rxCrc b) b (takeChecksum b) s

end Sys2Proof.Machine
end

