-- ==== Sys2Proof/Machine/ExecFrames.lean ====
section
/-! DEFINITION. The meanings of the rows that are no operation and no transition: the two frame formats, the command codes and
the error codes (30_encoding.md R46, R47, R51, R53; logs 4, 5 and 6). -/

namespace Sys2Proof.Machine

/-- REQ (R46): a request frame arrives at RX, one FEED_BYTE per byte (42_frame_receiver.md R107, R111; log 4). One with more
than 512 payload bytes comes from a foreign sender and is fed like any other; the receiver rejects it at its third byte (R49). -/
def execReq (cmd : Byte) (payload : List Byte) (s : State) : Result :=
  feedAll (requestFrame cmd payload) (s.returning .nothing)

/-- ACK (R47): an acknowledgement looped back into RX, one FEED_BYTE per byte (30_encoding.md R59, 42_frame_receiver.md R114,
70_reset_and_hazards.md R169; log 4). -/
def execAck (code : Byte) (extra : List Byte) (s : State) : Result :=
  feedAll (ackFrame code extra) (s.returning .nothing)

/-- A command code arrives at RX: in WaitCommand it is byte 3 of a REQ, in any other state the field that is due
(30_encoding.md R51, R58; log 5). -/
def feedCode (code : Byte) (s : State) : Result := feed code (s.returning .nothing)

/-- CMD.EXEC (R51). -/
def execCmdExec (s : State) : Result := feedCode cmdExecCode s

/-- CMD.PING (R51). -/
def execCmdPing (s : State) : Result := feedCode cmdPingCode s

/-- CMD.QUERY_STACK (R51): the code is open. -/
def execCmdQueryStack (s : State) : Result := feedCode Config.cmdQueryStack s

/-- CMD.QUERY_MEMORY (R51): the code is open. -/
def execCmdQueryMemory (s : State) : Result := feedCode Config.cmdQueryMemory s

/-- CMD.QUERY_WORD (R51): the code is open. -/
def execCmdQueryWord (s : State) : Result := feedCode Config.cmdQueryWord s

/-- CMD.RESET (R51): to the block a code like any other (43_dispatch_boundary.md R124). -/
def execCmdReset (s : State) : Result := feedCode cmdResetCode s

/-- An error code, as byte 3 of an acknowledgement: `ENCODE_ACK(code, extra)` is handed back, the first part of raising a
response (30_encoding.md R47, R53; 60_exceptions.md R141 (1)). It is not emitted and the receiver stays: only a frame that
FEED_BYTE completes or rejects is answered (10_state.md R12, R23; 42_frame_receiver.md R109; log 6). -/
def acknowledgeWith (code : Byte) (extra : List Byte) (s : State) : Result :=
  .next (s.returning (.encoded (encodeAck s.cfg.maxAckExtra code extra)))

/-- ERR.OK (R53): the DISPATCHER's answer on success (60_exceptions.md R136). -/
def execErrOk (extra : List Byte) (s : State) : Result := acknowledgeWith s.cfg.errOk extra s

/-- ERR.GENERAL_ERROR (R53): an answer of the DISPATCHER (60_exceptions.md R136). -/
def execErrGeneral (extra : List Byte) (s : State) : Result := acknowledgeWith s.cfg.errGeneral extra s

/-- ERR.INVALID_FRAME (R53): raised by the block with no extra payload (42_frame_receiver.md R108), or an answer of the
DISPATCHER. -/
def execErrInvalidFrame (extra : List Byte) (s : State) : Result := acknowledgeWith s.cfg.errInvalidFrame extra s

/-- ERR.BUFFER_FULL (R53): raised by the block with no extra payload (42_frame_receiver.md R100). -/
def execErrBufferFull (s : State) : Result := acknowledgeWith s.cfg.errBufferFull [] s

/-- ERR.VM_ERROR (R53): an answer of the DISPATCHER (60_exceptions.md R136). -/
def execErrVm (extra : List Byte) (s : State) : Result := acknowledgeWith s.cfg.errVm extra s

end Sys2Proof.Machine
end

