-- ==== Sys2Proof/Machine/Dispatch.lean ====
section
/-! DEFINITION. One arm per constructor of Instr. -/

namespace Sys2Proof.Machine

def exec (i : Instr) (s : State) : Host.Outcome State Fault Refusal :=
  match i with
  | .crc8Update c b => Sys2Proof.Machine.execCrc8Update c b s
  | .crc8 bytes => Sys2Proof.Machine.execCrc8 bytes s
  | .encodeFrame cmd payload => Sys2Proof.Machine.execEncodeFrame cmd payload s
  | .encodeAck code extra => Sys2Proof.Machine.execEncodeAck code extra s
  | .verifyFrameCrc buffer => Sys2Proof.Machine.execVerifyFrameCrc buffer s
  | .decodeFrame buffer => Sys2Proof.Machine.execDecodeFrame buffer s
  | .feedByte b => Sys2Proof.Machine.execFeedByte b s
  | .reset => Sys2Proof.Machine.execReset s
  | .init capacity sink context => Sys2Proof.Machine.execInit capacity sink context s
  | .rxDiscard b => Sys2Proof.Machine.execRxDiscard b s
  | .rxStart => Sys2Proof.Machine.execRxStart s
  | .rxLenLo b => Sys2Proof.Machine.execRxLenLo b s
  | .rxLenHi b => Sys2Proof.Machine.execRxLenHi b s
  | .rxLenHiFull b => Sys2Proof.Machine.execRxLenHiFull b s
  | .rxCmd b => Sys2Proof.Machine.execRxCmd b s
  | .rxCmdEmpty b => Sys2Proof.Machine.execRxCmdEmpty b s
  | .rxPayload b => Sys2Proof.Machine.execRxPayload b s
  | .rxPayloadLast b => Sys2Proof.Machine.execRxPayloadLast b s
  | .rxCrc b => Sys2Proof.Machine.execRxCrc b s
  | .req cmd payload => Sys2Proof.Machine.execReq cmd payload s
  | .ack code extra => Sys2Proof.Machine.execAck code extra s
  | .cmdExec => Sys2Proof.Machine.execCmdExec s
  | .cmdPing => Sys2Proof.Machine.execCmdPing s
  | .cmdQueryStack => Sys2Proof.Machine.execCmdQueryStack s
  | .cmdQueryMemory => Sys2Proof.Machine.execCmdQueryMemory s
  | .cmdQueryWord => Sys2Proof.Machine.execCmdQueryWord s
  | .cmdReset => Sys2Proof.Machine.execCmdReset s
  | .errOk extra => Sys2Proof.Machine.execErrOk extra s
  | .errGeneral extra => Sys2Proof.Machine.execErrGeneral extra s
  | .errInvalidFrame extra => Sys2Proof.Machine.execErrInvalidFrame extra s
  | .errBufferFull => Sys2Proof.Machine.execErrBufferFull s
  | .errVm extra => Sys2Proof.Machine.execErrVm extra s

end Sys2Proof.Machine
end

