-- ==== Sys2Proof/Machine/Step.lean ====
section
/-! DEFINITION. One step of the machine: take the next request, decode it, run it (00_scope.md R5). -/

namespace Sys2Proof.Machine

/-- One step. With no request pending the block is idle, its state intact (60_exceptions.md R151; log 1). -/
def step (s : State) : Host.Outcome State Fault Refusal :=
  match s.fetch with
  | none => .next s
  | some (i, t) => exec i t

/-- The coded instruction `w` placed as the next request. -/
def State.withFetchWord (s : State) (nbits w : Nat) : State := 
  s.present (.coded (firstByte w) (laterBytes nbits w))

end Sys2Proof.Machine
end

