-- ==== Sys2Proof/Safety.lean ====
section
/-! DEFINITION. What counts as a sound state and as a safe run: the invariant of 10_state.md R24, the contract of the
collaborators, and the terms the statements use. -/

namespace Sys2Proof.Machine

/-- The receiver state is the reset state of 10_state.md R25. -/
abbrev State.receiverIdle (s : State) : Prop :=
  s.st = .waitStart ∧ s.buf = [] ∧ s.n = 0#16 ∧ s.len = 0#16 ∧ s.cmd = 0#8 ∧ s.cur = 0#16

/-- `buf[0] = 0xA5`. -/
abbrev State.markerHeld (s : State) : Prop := s.buf.read 0 = some startMarker

/-- `len = from_le16(buf[1], buf[2])`, at most BUFFER_CAPACITY. -/
abbrev State.lengthHeld (s : State) : Prop :=
  s.buf.declaredLength = some s.len ∧ s.len.toNat ≤ s.cfg.capacity

/-- The registers that are 0 until the command byte arrives. -/
abbrev State.commandClear (s : State) : Prop := s.cmd = 0#8 ∧ s.cur = 0#16

/-- The table of 10_state.md R24, one line per state; the defined positions are exactly those below `n`. -/
abbrev State.receiverInv (s : State) : Prop :=
  s.buf.map Prod.fst = List.range s.n.toNat ∧
  (s.st = .waitStart → s.receiverIdle) ∧
  (s.st = .waitLenLow → s.n = 1#16 ∧ s.markerHeld ∧ s.len = 0#16 ∧ s.commandClear) ∧
  (s.st = .waitLenHigh → s.n = 2#16 ∧ s.markerHeld ∧ s.len = 0#16 ∧ s.commandClear) ∧
  (s.st = .waitCommand → s.n = 3#16 ∧ s.markerHeld ∧ s.lengthHeld ∧ s.commandClear) ∧
  (s.st = .waitPayload → s.n.toNat = 4 + s.cur.toNat ∧ s.markerHeld ∧ s.lengthHeld ∧
    s.buf.read 3 = some s.cmd ∧ s.cur.toNat < s.len.toNat) ∧
  (s.st = .waitChecksum → s.n.toNat = 4 + s.len.toNat ∧ s.markerHeld ∧ s.lengthHeld ∧
    s.buf.read 3 = some s.cmd ∧ s.cur = s.len)

/-- The invariant of the machine: legal parameters (00_scope.md R7), the buffer in canonical form, and R24. -/
abbrev State.Inv (s : State) : Prop := s.cfg.wf = true ∧ s.buf.wf ∧ s.receiverInv

/-- The buffer holds exactly the bytes `bs`, from position 0 on. -/
abbrev State.buffers (s : State) (bs : List Byte) : Prop :=
  s.n.toNat = bs.length ∧ s.buf.readRange 0 bs.length = some bs

/-- The write that an emit of `bytes` adds to TX. -/
def State.writeOf (s : State) (bytes : List Byte) : SinkWrite :=
  { sink := s.cfg.sink.id, context := s.cfg.context, bytes := bytes }

/-- `s` with `bytes` as one more element of TX. -/
def State.sent (s : State) (bytes : List Byte) : State := { s with tx := s.tx ++ [s.writeOf bytes] }

end Sys2Proof.Machine
end

