-- ==== Sys2Proof/Certificates/Slice0/Obligations.lean ====
section
/-! DEFINITION. The statements for the provers, from the numbered rules of spec/. Each docstring says what is stated; the rule it
formalises is in OBLIGATIONS.json. -/

open Sys2Proof Sys2Proof.Machine

/-- For every c, b and state, exec of CRC8_UPDATE(c, b) answers the same state with ret the byte v, where v is eight
rounds of (doubling cut to 8 bits, xor 7 when bit 7 was set) applied to c xor b, in plain arithmetic. -/
def Obligations.Crc8UpdateRunsEightRounds : Prop :=
  ∀ (c b : Byte) (s : State), ∃ v : Byte,
    exec (.crc8Update c b) s = .next { s with ret := .byte v } ∧
    v.toNat = (fun x => if x / 128 = 1 then (2 * x % 256) ^^^ 7 else 2 * x % 256)^[8] (c ^^^ b).toNat

/-- For every byte sequence and state, exec of CRC8(bytes) answers the same state with ret the left fold of
CRC8_UPDATE from 0x00; for [] that is 0x00. -/
def Obligations.Crc8FoldsUpdateFromZero : Prop :=
  ∀ (bytes : List Byte) (s : State),
    exec (.crc8 bytes) s = .next { s with ret := .byte (bytes.foldl crc8Update 0x00#8) } ∧
    exec (.crc8 []) s = .next { s with ret := .byte 0x00#8 }

/-- The source's own self-test vector: in every state, exec of CRC8 on 31 32 .. 39 hands back 0xF4. -/
def Obligations.Crc8OfReferenceStringIsF4 : Prop :=
  ∀ s : State,
    exec (.crc8 [0x31#8, 0x32#8, 0x33#8, 0x34#8, 0x35#8, 0x36#8, 0x37#8, 0x38#8, 0x39#8]) s =
      .next { s with ret := .byte 0xF4#8 }

/-- For every byte sequence bs and state, exec of CRC8(bs ++ [CRC8(bs)]) hands back 0x00. -/
def Obligations.Crc8ResidueIsZero : Prop :=
  ∀ (bs : List Byte) (s : State), exec (.crc8 (bs ++ [crc8 bs])) s = .next { s with ret := .byte 0x00#8 }

/-- For all byte sequences s and t, exec of CRC8(s ++ t) hands back the accumulator obtained by starting from CRC8(s)
and applying CRC8_UPDATE over t; and two accumulators that differ stay different whatever t is, so that the running
accumulator carries all that later bytes need. The first clause is R71; the second follows from R66 and R67. -/
def Obligations.Crc8StreamsOverConcatenation : Prop :=
  ∀ (xs ys : List Byte) (s : State),
    exec (.crc8 (xs ++ ys)) s = .next { s with ret := .byte (ys.foldl crc8Update (crc8 xs)) } ∧
    ∀ c d : Byte, ys.foldl crc8Update c = ys.foldl crc8Update d → c = d

/-- CRC8_UPDATE(c1^c2, b1^b2) = CRC8_UPDATE(c1,b1) ^ CRC8_UPDATE(c2,b2); CRC8 of the bytewise exclusive or of two
sequences of equal length is the exclusive or of their checksums; CRC8([0x00] ++ s) = CRC8(s). -/
def Obligations.Crc8IsLinear : Prop :=
  (∀ c1 c2 b1 b2 : Byte, crc8Update (c1 ^^^ c2) (b1 ^^^ b2) = crc8Update c1 b1 ^^^ crc8Update c2 b2) ∧
  (∀ xs ys : List Byte, xs.length = ys.length →
    crc8 (List.zipWith (fun x y => x ^^^ y) xs ys) = crc8 xs ^^^ crc8 ys) ∧
  (∀ xs : List Byte, crc8 (0x00#8 :: xs) = crc8 xs)

/-- For all xs, ys, any two different bytes b and d and every state, exec of CRC8(xs ++ [b] ++ ys) and exec of CRC8(xs
++ [d] ++ ys) complete with different results. R73 (a) says it for one changed bit; this is the stronger form for one
changed byte, which follows from R66 and R67. -/
def Obligations.Crc8DetectsOneChangedByte : Prop :=
  ∀ (xs ys : List Byte) (b d : Byte) (s : State), b ≠ d → ∃ v w : Byte,
    exec (.crc8 (xs ++ b :: ys)) s = .next { s with ret := .byte v } ∧
    exec (.crc8 (xs ++ d :: ys)) s = .next { s with ret := .byte w } ∧ v ≠ w

/-- For every cmd, payload and state: with L <= 512 the result is ok of [0xA5] ++ body ++ [CRC8(body)], body = [L &
0xFF, (L >> 8) & 0xFF, cmd] ++ payload; with L > 512 it is fail. Nothing else of the state changes. -/
def Obligations.EncodeFrameBuildsRequestOrFails : Prop :=
  ∀ (cmd : Byte) (payload : List Byte) (s : State),
    (payload.length ≤ 512 →
      exec (.encodeFrame cmd payload) s = .next { s with ret := .encoded (.ok
        ([0xA5#8] ++ ([BitVec.ofNat 8 (payload.length % 256), BitVec.ofNat 8 (payload.length / 256), cmd] ++ payload) ++
          [crc8 ([BitVec.ofNat 8 (payload.length % 256), BitVec.ofNat 8 (payload.length / 256), cmd] ++ payload)])) }) ∧
    (512 < payload.length → exec (.encodeFrame cmd payload) s = .next { s with ret := .encoded .fail })

/-- For every code, extra and state with MAX_ACK_EXTRA at most 65534: with X <= MAX_ACK_EXTRA the result is ok of
[0xA5] ++ body ++ [CRC8(body)], body = [LEN & 0xFF, (LEN >> 8) & 0xFF, code] ++ extra, LEN = 1 + X; above it the
result is fail. Nothing else of the state changes. -/
def Obligations.EncodeAckBuildsAcknowledgementOrFails : Prop :=
  ∀ (code : Byte) (extra : List Byte) (s : State), s.cfg.maxAckExtra ≤ 65534 →
    (extra.length ≤ s.cfg.maxAckExtra →
      exec (.encodeAck code extra) s = .next { s with ret := .encoded (.ok
        ([0xA5#8] ++ ([BitVec.ofNat 8 ((1 + extra.length) % 256), BitVec.ofNat 8 ((1 + extra.length) / 256), code] ++ extra) ++
          [crc8 ([BitVec.ofNat 8 ((1 + extra.length) % 256), BitVec.ofNat 8 ((1 + extra.length) / 256), code] ++ extra)])) }) ∧
    (s.cfg.maxAckExtra < extra.length → exec (.encodeAck code extra) s = .next { s with ret := .encoded .fail })

/-- A request frame of L <= 512 payload bytes is 5 + L bytes long: byte 0 is 0xA5, bytes 1 and 2 are LEN_LO and LEN_HI
with LEN_LO + 256 * LEN_HI = L (so LEN_HI is 0, 1 or 2, and LEN_LO is 0 when LEN_HI is 2), byte 3 is CMD, bytes 4 to 3
+ L are the payload, byte 4 + L is CRC8([LEN_LO, LEN_HI, CMD] ++ PAYLOAD). -/
def Obligations.RequestFrameHasItsLayout : Prop :=
  ∀ (p : Params) (cmd : Byte) (payload : List Byte), payload.length ≤ 512 → ∃ (f : List Byte) (lo hi : Byte),
    encode p (.req cmd payload) = some f ∧ f.length = 5 + payload.length ∧
    f[0]? = some 0xA5#8 ∧ f[1]? = some lo ∧ f[2]? = some hi ∧ f[3]? = some cmd ∧
    lo.toNat + 256 * hi.toNat = payload.length ∧ hi.toNat ≤ 2 ∧ (hi.toNat = 2 → lo = 0#8) ∧
    (∀ i < payload.length, f[4 + i]? = payload[i]?) ∧
    f[4 + payload.length]? = some (crc8 ([lo, hi, cmd] ++ payload))

/-- An acknowledgement frame of X <= 65534 extra bytes is 5 + X bytes long: byte 0 is 0xA5, bytes 1 and 2 are LEN_LO
and LEN_HI with LEN_LO + 256 * LEN_HI = 1 + X, byte 3 is ERR, bytes 4 to 3 + X are the extra payload, byte 4 + X is
CRC8([LEN_LO, LEN_HI, ERR] ++ EXTRA). -/
def Obligations.AckFrameHasItsLayout : Prop :=
  ∀ (p : Params) (code : Byte) (extra : List Byte), extra.length ≤ 65534 → ∃ (f : List Byte) (lo hi : Byte),
    encode p (.ack code extra) = some f ∧ f.length = 5 + extra.length ∧
    f[0]? = some 0xA5#8 ∧ f[1]? = some lo ∧ f[2]? = some hi ∧ f[3]? = some code ∧
    lo.toNat + 256 * hi.toNat = 1 + extra.length ∧
    (∀ i < extra.length, f[4 + i]? = extra[i]?) ∧
    f[4 + extra.length]? = some (crc8 ([lo, hi, code] ++ extra))

/-- For every buffer and state, exec hands back a verdict and changes nothing else; the verdict is valid exactly when
the buffer is some first byte, a span of at least 3 bytes, and the span's CRC8. -/
def Obligations.VerifyFrameCrcJudgesBuffer : Prop :=
  ∀ (buffer : List Byte) (s : State), ∃ v : Bool,
    exec (.verifyFrameCrc buffer) s = .next { s with ret := .verdict v } ∧
    (v = true ↔ ∃ (first : Byte) (span : List Byte), buffer = first :: (span ++ [crc8 span]) ∧ 3 ≤ span.length)

/-- R84 (a), (b) and (e): a frame ENCODE_FRAME or ENCODE_ACK returned is valid, and replacing byte 0 of any buffer of
two or more bytes does not change the verdict. -/
def Obligations.EncodedFramesVerify : Prop :=
  (∀ (cmd : Byte) (payload f : List Byte), Machine.encodeFrame cmd payload = .ok f → verifyFrameCrc f = true) ∧
  (∀ (max : Nat) (code : Byte) (extra f : List Byte), encodeAck max code extra = .ok f → verifyFrameCrc f = true) ∧
  (∀ (a b d : Byte) (rest : List Byte), verifyFrameCrc (a :: b :: rest) = verifyFrameCrc (d :: b :: rest))

/-- R84 (c) and (d) in the stronger form for a whole byte: if the verdict on xs ++ [b] ++ ys is valid, xs is not empty
and d differs from b, then exec of VERIFY_FRAME_CRC on xs ++ [d] ++ ys hands back invalid. -/
def Obligations.VerifyRejectsOneDamagedByte : Prop :=
  ∀ (xs ys : List Byte) (b d : Byte) (s : State), xs ≠ [] → b ≠ d → verifyFrameCrc (xs ++ b :: ys) = true →
    exec (.verifyFrameCrc (xs ++ d :: ys)) s = .next { s with ret := .verdict false }

/-- For every buffer and state, exec hands back a decode result and changes nothing else; it is ok(cmd, payload)
exactly when N >= 5, byte 0 is 0xA5, L = byte 1 + 256 * byte 2 is at most 512, N = 5 + L, VERIFY_FRAME_CRC is valid,
cmd is byte 3 and payload is bytes 4 to 3 + L; else it is invalid. -/
def Obligations.DecodeFrameTakesRequestApart : Prop :=
  ∀ (buffer : List Byte) (s : State), ∃ r : DecodeResult,
    exec (.decodeFrame buffer) s = .next { s with ret := .decoded r } ∧
    ∀ (cmd : Byte) (payload : List Byte), r = .ok cmd payload ↔
      ∃ lo hi : Byte, 5 ≤ buffer.length ∧ buffer[0]? = some 0xA5#8 ∧ buffer[1]? = some lo ∧ buffer[2]? = some hi ∧
        lo.toNat + 256 * hi.toNat ≤ 512 ∧ buffer.length = 5 + (lo.toNat + 256 * hi.toNat) ∧
        verifyFrameCrc buffer = true ∧ buffer[3]? = some cmd ∧
        payload = (buffer.drop 4).take (lo.toNat + 256 * hi.toNat)

/-- For every cmd, payload, frame f and state: ENCODE_FRAME(cmd, payload) hands back ok(f) exactly when
DECODE_FRAME(f) hands back ok(cmd, payload); with |payload| <= 512 there is such an f; with more ENCODE_FRAME hands
back fail. -/
def Obligations.DecodeFrameInvertsEncodeFrame : Prop :=
  ∀ (cmd : Byte) (payload : List Byte) (s : State),
    (∀ f : List Byte, exec (.encodeFrame cmd payload) s = .next { s with ret := .encoded (.ok f) } ↔
      exec (.decodeFrame f) s = .next { s with ret := .decoded (.ok cmd payload) }) ∧
    (payload.length ≤ 512 → ∃ f : List Byte, exec (.encodeFrame cmd payload) s = .next { s with ret := .encoded (.ok f) }) ∧
    (512 < payload.length → exec (.encodeFrame cmd payload) s = .next { s with ret := .encoded .fail })

/-- For every legal parameter record and every well-formed instruction of the rows REQ, ACK, CMD.EXEC, CMD.PING,
CMD.RESET and ERR.*, encode gives bytes and the decoder of its format gives the instruction back from them. The codes
of the three QUERY rows are open, so their byte decodes to a row with that same code. The readings of ACK frames and
of the code rows are the model's (logs 2, 5, 6, 25). -/
def Obligations.FrameAndCodeRowsDecodeBack : Prop :=
  ∀ p : Params, p.wf = true →
    (∀ cmd payload, Instr.wf (.req cmd payload) = true →
      ∃ f, encode p (.req cmd payload) = some f ∧ decodeRequestFrame f = some (.req cmd payload)) ∧
    (∀ code extra, Instr.wf (.ack code extra) = true →
      ∃ f, encode p (.ack code extra) = some f ∧ decodeAcknowledgement f = some (.ack code extra)) ∧
    (∀ i ∈ [Instr.cmdExec, .cmdPing, .cmdReset], ∃ b, encode p i = some [b] ∧ decodeCmdCode b = some i) ∧
    (∀ i ∈ [Instr.cmdQueryStack, .cmdQueryMemory, .cmdQueryWord], ∃ (b : Byte) (j : Instr),
      encode p i = some [b] ∧ decodeCmdCode b = some j ∧ encode p j = some [b]) ∧
    (∀ extra, ∀ i ∈ [Instr.errOk extra, .errGeneral extra, .errInvalidFrame extra, .errVm extra, .errBufferFull],
      i.wf = true → ∃ f, encode p i = some f ∧ decodeResponse p f = some i)

/-- For every receiver view and byte, encode of the selected row is that byte and the row is well formed; and for
every well-formed instruction whose encoding is that of a transition row there is a receiver view in which its byte
selects it. -/
def Obligations.TransitionRowsDecodeBack : Prop :=
  (∀ (p : Params) (st : RxState) (fits : Bool) (len cur : Half) (b : Byte),
    encode p (selectTransition st fits len cur b) = some [b] ∧ (selectTransition st fits len cur b).wf = true) ∧
  (∀ (p : Params) (b : Byte),
    ∀ i ∈ [Instr.rxDiscard b, .rxStart, .rxLenLo b, .rxLenHi b, .rxLenHiFull b, .rxCmd b, .rxCmdEmpty b, .rxPayload b,
        .rxPayloadLast b, .rxCrc b],
      i.wf = true → ∃ st fits len cur d, encode p i = some [d] ∧ selectTransition st fits len cur d = i)

/-- 0xA5 decodes to RX.START; 0x10, 0x20, 0xFF to CMD.EXEC, CMD.PING, CMD.RESET; the bytes A5 00 00 20 E0 as one table
word, and A5 01 00 10 A5 33, to their REQ; A5 04 00 00 01 07 00 A4 to its ACK. How a lone byte or a table word is read
with no receiver state is the model's choice (log 2), and the reader of ACK frames is deduced (log 25). -/
def Obligations.WrittenWordsDecode : Prop :=
  decodeTableWord 8 0xA5 = some .rxStart ∧ decodeTableWord 8 0x10 = some .cmdExec ∧
  decodeTableWord 8 0x20 = some .cmdPing ∧ decodeTableWord 8 0xFF = some .cmdReset ∧
  decodeTableWord 40 0xE0200000A5 = some (.req 0x20#8 []) ∧
  decodeRequestFrame [0xA5#8, 0x01#8, 0x00#8, 0x10#8, 0xA5#8, 0x33#8] = some (.req 0x10#8 [0xA5#8]) ∧
  decodeAcknowledgement [0xA5#8, 0x04#8, 0x00#8, 0x00#8, 0x01#8, 0x07#8, 0x00#8, 0xA4#8] =
    some (.ack 0x00#8 [0x01#8, 0x07#8, 0x00#8])

/-- For every state whose capacity is at most 512 and that buffers exactly the bytes `frame`, with room in the buffer:
append(b) completes, the state then buffers exactly frame ++ [b], every position but n reads as before, and everything
but buf and n is unchanged; without room it is the fault bufferOverflow, which is the model's choice (log 15), not
R32's. -/
def Obligations.AppendExtendsTheBufferedBytes : Prop :=
  ∀ (s : State) (b : Byte) (frame : List Byte), s.cfg.capacity ≤ 512 → s.buffers frame →
    (frame.length < s.cfg.capacity + 5 → ∃ t, s.append b = .next t ∧ t.buffers (frame ++ [b]) ∧
      (∀ x : Nat, x ≠ frame.length → t.buf.read x = s.buf.read x) ∧ t = { s with buf := t.buf, n := t.n }) ∧
    (s.cfg.capacity + 5 ≤ frame.length → s.append b = .fault .bufferOverflow)

/-- In every state with st = WaitStart, for every byte but 0xA5, FEED_BYTE(b) and the row RX.DISCARD complete, and
only the model's own ret is set. -/
def Obligations.DiscardChangesNothing : Prop :=
  ∀ (s : State) (b : Byte), s.st = .waitStart → b ≠ 0xA5#8 →
    exec (.feedByte b) s = .next { s with ret := .nothing } ∧
    exec (.rxDiscard b) s = .next { s with ret := .nothing }

/-- In every state with st = WaitStart, FEED_BYTE(0xA5) and the row RX.START complete with st = WaitLenLow, n = 1 and
the buffer holding 0xA5 at position 0 alone; nothing else changes. -/
def Obligations.StartMarkerOpensFrame : Prop :=
  ∀ s : State, s.st = .waitStart →
    exec (.feedByte 0xA5#8) s =
      .next { s with st := .waitLenLow, buf := [(0, 0xA5#8)], n := 1#16, ret := .nothing } ∧
    exec .rxStart s = .next { s with st := .waitLenLow, buf := [(0, 0xA5#8)], n := 1#16, ret := .nothing }

/-- In every state with st = WaitLenLow and n inside the buffer, FEED_BYTE(b) and the row RX.LEN_LO complete with b at
position n, n + 1 and st = WaitLenHigh; every other position and every other field is unchanged. -/
def Obligations.LengthLowOctetIsAppended : Prop :=
  ∀ (s : State) (b : Byte), s.st = .waitLenLow → s.n.toNat < frameBufSize s.cfg →
    exec (.feedByte b) s =
      .next { s with st := .waitLenHigh, buf := s.buf.write s.n.toNat b, n := s.n + 1#16, ret := .nothing } ∧
    exec (.rxLenLo b) s =
      .next { s with st := .waitLenHigh, buf := s.buf.write s.n.toNat b, n := s.n + 1#16, ret := .nothing }

/-- In every state with st = WaitLenHigh, n = 2 and lo at position 1, with v = lo + 256 * b: if v <= BUFFER_CAPACITY,
FEED_BYTE(b) and RX.LEN_HI complete with b at position 2, n = 3, len = v, st = WaitCommand; if v > BUFFER_CAPACITY and
the SINK returns, FEED_BYTE(b) and RX.LEN_HI.FULL complete with the receiver re-initialised and exactly one
acknowledgement, ENCODE_ACK(ERR_BUFFER_FULL, []), added to TX. Nothing else changes. -/
def Obligations.LengthHighOctetAcceptsOrRejects : Prop :=
  ∀ (s : State) (lo b : Byte), s.st = .waitLenHigh → s.n = 2#16 → s.buf.read 1 = some lo →
    (lo.toNat + 256 * b.toNat ≤ s.cfg.capacity → ∃ v : Half, v.toNat = lo.toNat + 256 * b.toNat ∧
      exec (.feedByte b) s =
        .next { s with st := .waitCommand, buf := s.buf.write 2 b, n := 3#16, len := v, ret := .nothing } ∧
      exec (.rxLenHi b) s =
        .next { s with st := .waitCommand, buf := s.buf.write 2 b, n := 3#16, len := v, ret := .nothing }) ∧
    (s.cfg.capacity < lo.toNat + 256 * b.toNat → s.cfg.sink.returns = true →
      exec (.feedByte b) s =
        .next { s with
          st := .waitStart, buf := [], n := 0#16, len := 0#16, cmd := 0#8, cur := 0#16, ret := .nothing,
          tx := s.tx ++ [s.writeOf (ackFrame s.cfg.errBufferFull [])] } ∧
      exec (.rxLenHiFull b) s =
        .next { s with
          st := .waitStart, buf := [], n := 0#16, len := 0#16, cmd := 0#8, cur := 0#16, ret := .nothing,
          tx := s.tx ++ [s.writeOf (ackFrame s.cfg.errBufferFull [])] })

/-- In every state with st = WaitCommand and n inside the buffer, FEED_BYTE(b) completes with b at position n, n + 1,
cmd = b, cur = 0 and st = WaitChecksum if len = 0, else WaitPayload; the row RX.CMD.EMPTY does the same when len = 0
and RX.CMD when len is not 0. Nothing else changes. -/
def Obligations.CommandByteIsStored : Prop :=
  ∀ (s : State) (b : Byte), s.st = .waitCommand → s.n.toNat < frameBufSize s.cfg →
    exec (.feedByte b) s =
      .next { s with
        st := if s.len = 0#16 then .waitChecksum else .waitPayload
        buf := s.buf.write s.n.toNat b, n := s.n + 1#16, cmd := b, cur := 0#16, ret := .nothing } ∧
    (s.len = 0#16 → exec (.rxCmdEmpty b) s =
      .next { s with
        st := .waitChecksum, buf := s.buf.write s.n.toNat b, n := s.n + 1#16, cmd := b, cur := 0#16, ret := .nothing }) ∧
    (s.len ≠ 0#16 → exec (.rxCmd b) s =
      .next { s with
        st := .waitPayload, buf := s.buf.write s.n.toNat b, n := s.n + 1#16, cmd := b, cur := 0#16, ret := .nothing })

/-- In every state with st = WaitPayload and n inside the buffer, FEED_BYTE(b) completes with b at position n, n + 1,
cur + 1 and st = WaitChecksum exactly when cur + 1 = len; the row RX.PAYLOAD.LAST does the same when cur + 1 = len and
RX.PAYLOAD otherwise. Nothing else changes. -/
def Obligations.PayloadByteIsStored : Prop :=
  ∀ (s : State) (b : Byte), s.st = .waitPayload → s.n.toNat < frameBufSize s.cfg →
    exec (.feedByte b) s =
      .next { s with
        st := if s.cur + 1#16 = s.len then .waitChecksum else .waitPayload
        buf := s.buf.write s.n.toNat b, n := s.n + 1#16, cur := s.cur + 1#16, ret := .nothing } ∧
    (s.cur + 1#16 = s.len → exec (.rxPayloadLast b) s =
      .next { s with
        st := .waitChecksum, buf := s.buf.write s.n.toNat b, n := s.n + 1#16, cur := s.cur + 1#16, ret := .nothing }) ∧
    (s.cur + 1#16 ≠ s.len → exec (.rxPayload b) s =
      .next { s with
        st := .waitPayload, buf := s.buf.write s.n.toNat b, n := s.n + 1#16, cur := s.cur + 1#16, ret := .nothing })

/-- In every state with st = WaitChecksum, BUFFER_CAPACITY at most 512, room for one byte and exactly the bytes
`frame` buffered: if VERIFY_FRAME_CRC(frame ++ [b]) is invalid and the SINK returns, FEED_BYTE(b) and RX.CRC complete
with one ENCODE_ACK(ERR_INVALID_FRAME, []) added to TX and no dispatch; if it is valid, |frame| = 4 + len, the
DISPATCHER's answer to (cmd, buf[4 .. 3 + len]) is (code, extra) within the contract and the SINK returns, they
complete with that pair added to DSP and ENCODE_ACK(code, extra) added to TX. In both cases the receiver is re-
initialised and nothing else changes but the draw count of a dispatch. -/
def Obligations.ChecksumByteCompletesFrame : Prop :=
  ∀ (s : State) (b : Byte) (frame : List Byte), s.st = .waitChecksum → s.cfg.capacity ≤ 512 →
    s.n.toNat < frameBufSize s.cfg → s.buffers frame → s.cfg.sink.returns = true →
    (verifyFrameCrc (frame ++ [b]) = false → ∀ i ∈ [Instr.feedByte b, .rxCrc b], exec i s =
      .next { s with
        st := .waitStart, buf := [], n := 0#16, len := 0#16, cmd := 0#8, cur := 0#16, ret := .nothing,
        tx := s.tx ++ [s.writeOf (ackFrame s.cfg.errInvalidFrame [])] }) ∧
    (verifyFrameCrc (frame ++ [b]) = true → frame.length = 4 + s.len.toNat →
      ∀ (code : Byte) (extra : List Byte), s.answer s.cmd (frame.drop 4) = some (code, extra) →
        extra.length ≤ s.cfg.maxAckExtra → ∀ i ∈ [Instr.feedByte b, .rxCrc b], exec i s =
      .next { s with
        st := .waitStart, buf := [], n := 0#16, len := 0#16, cmd := 0#8, cur := 0#16, ret := .nothing,
        tx := s.tx ++ [s.writeOf (ackFrame code extra)],
        dsp := s.dsp ++ [{ cmd := s.cmd, payload := frame.drop 4 }], draws := s.draws + 1 })

/-- In every state of the invariant and for every byte, some row is selected: RX.START or RX.DISCARD in WaitStart by
the byte, RX.LEN_LO, RX.LEN_HI or RX.LEN_HI.FULL, RX.CMD or RX.CMD.EMPTY, RX.PAYLOAD or RX.PAYLOAD.LAST, RX.CRC in the
other states in that order; and exec of FEED_BYTE(b) is exec of that row. -/
def Obligations.FeedByteRunsTheSelectedTransition : Prop :=
  ∀ (s : State) (b : Byte), s.Inv → ∃ i : Instr,
    s.decodeByte b = some i ∧ exec (.feedByte b) s = exec i s ∧
    (s.st = .waitStart → i = if b = 0xA5#8 then .rxStart else .rxDiscard b) ∧
    (s.st = .waitLenLow → i = .rxLenLo b) ∧
    (s.st = .waitLenHigh → i = .rxLenHi b ∨ i = .rxLenHiFull b) ∧
    (s.st = .waitCommand → i = .rxCmd b ∨ i = .rxCmdEmpty b) ∧
    (s.st = .waitPayload → i = .rxPayload b ∨ i = .rxPayloadLast b) ∧
    (s.st = .waitChecksum → i = .rxCrc b)

/-- For every state, byte and transition row on that byte: if the byte does not select the row, exec of the row is the
refusal notSelected. That a row outside its state has no effect of its own is the model's reading of R61 and R96 (log
3). -/
def Obligations.UnselectedTransitionIsRefused : Prop :=
  ∀ (s : State) (b : Byte),
    (∀ i ∈ [Instr.rxDiscard b, .rxLenLo b, .rxLenHi b, .rxLenHiFull b, .rxCmd b, .rxCmdEmpty b, .rxPayload b,
        .rxPayloadLast b, .rxCrc b],
      s.decodeByte b ≠ some i → exec i s = .refused .notSelected) ∧
    (s.decodeByte 0xA5#8 ≠ some .rxStart → exec .rxStart s = .refused .notSelected)

/-- In every state of the invariant with st other than WaitStart, if FEED_BYTE(0xA5) completes: where the frame ends
at this byte for any byte value or by its length (in WaitChecksum, or in WaitLenHigh with lo + 256 * 0xA5 >
BUFFER_CAPACITY) the receiver is idle; in every other case st is not WaitStart, n has grown by one, 0xA5 stands at the
old position n, every earlier position reads as before, and nothing is emitted or dispatched. -/
def Obligations.StartMarkerInsideFrameIsData : Prop :=
  ∀ s t : State, s.Inv → s.st ≠ .waitStart → exec (.feedByte 0xA5#8) s = .next t →
    ((s.st = .waitChecksum ∨ (s.st = .waitLenHigh ∧
        ∃ lo : Byte, s.buf.read 1 = some lo ∧ s.cfg.capacity < lo.toNat + 256 * 0xA5)) → t.receiverIdle) ∧
    ((s.st ≠ .waitChecksum ∧ (s.st = .waitLenHigh →
        ∃ lo : Byte, s.buf.read 1 = some lo ∧ lo.toNat + 256 * 0xA5 ≤ s.cfg.capacity)) →
      t.st ≠ .waitStart ∧ t.n.toNat = s.n.toNat + 1 ∧ t.buf.read s.n.toNat = some 0xA5#8 ∧
        (∀ a < s.n.toNat, t.buf.read a = s.buf.read a) ∧ t.tx = s.tx ∧ t.dsp = s.dsp)

/-- In every state of the invariant, if FEED_BYTE(b) completes: in WaitChecksum, and in WaitLenHigh when the composed
length exceeds BUFFER_CAPACITY, TX has exactly one more element, whose bytes pass VERIFY_FRAME_CRC; in every other
case TX and DSP are unchanged. -/
def Obligations.FeedByteEmitsAtMostOnce : Prop :=
  ∀ (s t : State) (b lo : Byte), s.Inv → s.buf.read 1 = some lo ∨ s.st ≠ .waitLenHigh →
    exec (.feedByte b) s = .next t →
    (s.st = .waitChecksum ∨ (s.st = .waitLenHigh ∧ s.cfg.capacity < lo.toNat + 256 * b.toNat) →
      ∃ bytes, t.tx = s.tx ++ [s.writeOf bytes] ∧ verifyFrameCrc bytes = true) ∧
    (s.st ≠ .waitChecksum ∧ (s.st = .waitLenHigh → lo.toNat + 256 * b.toNat ≤ s.cfg.capacity) →
      t.tx = s.tx ∧ t.dsp = s.dsp)

/-- In every state of the invariant, if FEED_BYTE(b) completes then DSP is unchanged, or st was WaitChecksum, the
buffered frame with b passes VERIFY_FRAME_CRC, and DSP has exactly one more element: byte 3 of the frame and bytes 4
to 3 + len. -/
def Obligations.OnlyValidFramesReachTheDispatcher : Prop :=
  ∀ (s t : State) (b : Byte), s.Inv → exec (.feedByte b) s = .next t →
    t.dsp = s.dsp ∨
      (s.st = .waitChecksum ∧ ∃ frame : List Byte, s.buffers frame ∧ verifyFrameCrc (frame ++ [b]) = true ∧
        frame[3]? = some s.cmd ∧ (frame.drop 4).length = s.len.toNat ∧
        t.dsp = s.dsp ++ [{ cmd := s.cmd, payload := frame.drop 4 }])

/-- For every state (of the invariant or not): a FEED_BYTE that completes in WaitChecksum leaves the receiver idle,
and so does one that added an element to TX. -/
def Obligations.FrameEndLeavesResetState : Prop :=
  ∀ (s t : State) (b : Byte), exec (.feedByte b) s = .next t →
    (s.st = .waitChecksum → t.receiverIdle) ∧ (t.tx ≠ s.tx → t.receiverIdle)

/-- In every state of the invariant whose SINK returns and whose DISPATCHER answers within the contract, when the next
request is a byte at RX, step answers a next state without that request, and the invariant holds there. -/
def Obligations.EveryByteIsTaken : Prop :=
  ∀ (s : State) (b : Byte) (rest : List Request), s.Inv → s.cfg.contract = true → s.pending = .rx b :: rest →
    ∃ t, step s = .next t ∧ t.pending = rest ∧ t.Inv

/-- For every state s with s.Inv, whatever request is next, if step s answers next t then t.Inv: the buffer is
canonical and holds exactly the positions below n, the table of R24 holds, and the parameters are legal. -/
def Obligations.StepKeepsInvariant : Prop :=
  ∀ s t : State, s.Inv → step s = .next t → t.Inv

/-- State.reset satisfies the invariant of R24 with the default parameters. -/
def Obligations.ResetStateHasInvariant : Prop :=
  State.reset.Inv

/-- For every state of the invariant, whatever request is next, step s is neither the fault undefinedByte nor the
fault bufferOverflow. -/
def Obligations.InvariantRulesOutBufferFaults : Prop :=
  ∀ s : State, s.Inv → step s ≠ .fault .undefinedByte ∧ step s ≠ .fault .bufferOverflow

/-- Cases U6 and U4 of spec/93_implementation_defined.md, with the rules they rest on. In every state of the
invariant: (1) in WaitLenHigh, with lo at position 1 and lo + 256 * b > BUFFER_CAPACITY and a SINK that never returns,
FEED_BYTE(b) and RX.LEN_HI.FULL are the fault sinkNeverReturns. In WaitChecksum, with `frame` buffered, FEED_BYTE(b)
and RX.CRC are: (2) on an invalid frame with a SINK that never returns the fault sinkNeverReturns; (3) on a valid one
with a silent DISPATCHER the fault dispatcherNeverReturns; (4) on a valid one with an answer of at most MAX_ACK_EXTRA
extra bytes and a SINK that never returns, which the oracle and STUB always give, the fault sinkNeverReturns; (5) on a
valid one with a longer answer the refusal emitOfFail. The faults and the refusal are the model's (logs 11, 12). -/
def Obligations.HangingCollaboratorStopsTheFrame : Prop :=
  ∀ (s : State) (b : Byte), s.Inv →
    (∀ lo : Byte, s.st = .waitLenHigh → s.buf.read 1 = some lo → s.cfg.capacity < lo.toNat + 256 * b.toNat →
      s.cfg.sink.returns = false → ∀ i ∈ [Instr.feedByte b, .rxLenHiFull b], exec i s = .fault .sinkNeverReturns) ∧
    (∀ frame : List Byte, s.st = .waitChecksum → s.buffers frame → ∀ i ∈ [Instr.feedByte b, .rxCrc b],
      (verifyFrameCrc (frame ++ [b]) = false → s.cfg.sink.returns = false → exec i s = .fault .sinkNeverReturns) ∧
      (verifyFrameCrc (frame ++ [b]) = true →
        (s.cfg.dispatcher = .silent → exec i s = .fault .dispatcherNeverReturns) ∧
        (s.cfg.sink.returns = false →
          (s.cfg.dispatcher = .oracle → exec i s = .fault .sinkNeverReturns) ∧
          (s.cfg.dispatcher = .stub → exec i s = .fault .sinkNeverReturns) ∧
          (∀ code extra, s.cfg.dispatcher = .fixed code extra → extra.length ≤ s.cfg.maxAckExtra →
            exec i s = .fault .sinkNeverReturns)) ∧
        (∀ code extra, s.cfg.dispatcher = .fixed code extra → s.cfg.maxAckExtra < extra.length →
          exec i s = .refused .emitOfFail)))

/-- For every state with st = WaitStart, every g without 0xA5 and every bs: feeding g answers the state itself, and
feeding g ++ bs is feeding bs. -/
def Obligations.GarbageWithoutMarkerIsAbsorbed : Prop :=
  ∀ (s : State) (g bs : List Byte), s.st = .waitStart → 0xA5#8 ∉ g →
    feedAll g s = .next s ∧ feedAll (g ++ bs) s = feedAll bs s

/-- From every idle state whose SINK returns, with lo + 256 * hi > BUFFER_CAPACITY: the first two bytes emit nothing,
and the three together leave the same state with exactly one ENCODE_ACK(ERR_BUFFER_FULL, []) added to TX; no dispatch.
-/
def Obligations.OversizedLengthIsRejectedAtThirdByte : Prop :=
  ∀ (s : State) (lo hi : Byte), s.receiverIdle → s.cfg.sink.returns = true →
    s.cfg.capacity < lo.toNat + 256 * hi.toNat →
    (∃ t, feedAll [0xA5#8, lo] s = .next t ∧ t.tx = s.tx ∧ t.dsp = s.dsp) ∧
    feedAll [0xA5#8, lo, hi] s = .next { s with tx := s.tx ++ [s.writeOf (ackFrame s.cfg.errBufferFull [])] }

/-- From every idle state with legal parameters, for every cmd and every payload of at most BUFFER_CAPACITY bytes,
with the SINK returning and the DISPATCHER's answer (code, extra) within the contract: ENCODE_FRAME(cmd, payload) is
ok(f), DECODE_FRAME(f) is ok(cmd, payload), feeding all but the last byte of f emits and dispatches nothing, and the
REQ row (all its bytes in order) leaves the same state with (cmd, payload) added to DSP and ENCODE_ACK(code, extra)
added to TX. The feeding clauses are R111's; that the REQ row is its bytes fed in one step is the model's reading (log
4). -/
def Obligations.RequestFrameIsReceivedAndAnswered : Prop :=
  ∀ (s : State) (cmd : Byte) (payload : List Byte) (code : Byte) (extra : List Byte),
    s.receiverIdle → s.cfg.wf = true → payload.length ≤ s.cfg.capacity → s.cfg.sink.returns = true →
    s.answer cmd payload = some (code, extra) → extra.length ≤ s.cfg.maxAckExtra →
    (∃ f, Machine.encodeFrame cmd payload = .ok f ∧ Machine.decodeFrame f = .ok cmd payload ∧
      (∃ t, feedAll f.dropLast s = .next t ∧ t.tx = s.tx ∧ t.dsp = s.dsp) ∧
      feedAll f s =
        .next { s with
          tx := s.tx ++ [s.writeOf (ackFrame code extra)]
          dsp := s.dsp ++ [{ cmd := cmd, payload := payload }], draws := s.draws + 1 }) ∧
    exec (.req cmd payload) s =
      .next { s with
        ret := .nothing, tx := s.tx ++ [s.writeOf (ackFrame code extra)]
        dsp := s.dsp ++ [{ cmd := cmd, payload := payload }], draws := s.draws + 1 }

/-- From every idle state with legal parameters and 1 + |x| <= BUFFER_CAPACITY, the ACK row completes with st =
WaitChecksum, len = 1 + |x|, cmd = code, nothing emitted and nothing dispatched. The next byte z, when the SINK
returns: for z = 0x00 the frame is accepted and, for an answer within the contract, Dispatch(code, x ++ [the
acknowledgement's checksum]) is performed and answered; for any other z one INVALID_FRAME acknowledgement is emitted.
That the ACK row is its bytes fed in one step is the model's reading (log 4). -/
def Obligations.LoopedBackAckWaitsForOneByteMore : Prop :=
  ∀ (s : State) (code : Byte) (x : List Byte), s.receiverIdle → s.cfg.wf = true → 1 + x.length ≤ s.cfg.capacity →
    ∃ (t : State) (k : Byte), exec (.ack code x) s = .next t ∧ (ackFrame code x).getLast? = some k ∧
      t.st = .waitChecksum ∧ t.len.toNat = 1 + x.length ∧ t.cmd = code ∧ t.tx = s.tx ∧ t.dsp = s.dsp ∧
      (s.cfg.sink.returns = true →
        (∀ z : Byte, z ≠ 0#8 → exec (.feedByte z) t =
          .next { s with ret := .nothing, tx := s.tx ++ [s.writeOf (ackFrame s.cfg.errInvalidFrame [])] }) ∧
        (∀ (c : Byte) (e : List Byte), s.answer code (x ++ [k]) = some (c, e) → e.length ≤ s.cfg.maxAckExtra →
          exec (.feedByte 0#8) t =
            .next { s with
              ret := .nothing, tx := s.tx ++ [s.writeOf (ackFrame c e)]
              dsp := s.dsp ++ [{ cmd := code, payload := x ++ [k] }], draws := s.draws + 1 }))

/-- In every state of the invariant whose collaborators keep the contract, exec of every REQ and of every ACK,
whatever the length of its payload, answers a next state in which the invariant holds. That such a row is all its
bytes fed in order in one step is the model's reading (log 4). -/
def Obligations.FrameRowsComplete : Prop :=
  ∀ (s : State) (c : Byte) (bs : List Byte), s.Inv → s.cfg.contract = true →
    (∃ t, exec (.req c bs) s = .next t ∧ t.Inv) ∧ (∃ t, exec (.ack c bs) s = .next t ∧ t.Inv)

/-- From every state of the invariant whose collaborators keep the contract, for every sequence of 4 + BUFFER_CAPACITY
bytes some beginning of it, when fed, completes in a state with st = WaitStart. -/
def Obligations.NoFrameWedgesTheReceiver : Prop :=
  ∀ (s : State) (bs : List Byte), s.Inv → s.cfg.contract = true → bs.length = 4 + s.cfg.capacity →
    ∃ (k : Nat) (t : State), k ≤ bs.length ∧ feedAll (bs.take k) s = .next t ∧ t.st = .waitStart

/-- For two idle states with the same configuration and the same draw count, and any bytes: if feeding them to the
first completes, feeding them to the second completes, and both add the same elements to TX and to DSP, whatever TX,
DSP, ret and pending held before. That equal draw counts stand for one state of the DISPATCHER is the model's choice
(log 9). -/
def Obligations.ResponsesIgnoreThePast : Prop :=
  ∀ (s u : State) (bs : List Byte) (t : State), s.receiverIdle → u.receiverIdle → s.cfg = u.cfg → s.draws = u.draws →
    feedAll bs s = .next t → ∃ (v : State) (ws : List SinkWrite) (ds : List DispatchCall),
      feedAll bs u = .next v ∧ t.tx = s.tx ++ ws ∧ v.tx = u.tx ++ ws ∧ t.dsp = s.dsp ++ ds ∧ v.dsp = u.dsp ++ ds

/-- From every idle state whose SINK returns, for BUFFER_CAPACITY < |payload| <= 65535: the REQ has an encoding f,
which is what ENCODE_FRAME builds when |payload| <= 512; its first three bytes leave the same state with exactly one
BUFFER_FULL acknowledgement added to TX; and the REQ row is those three bytes followed by the rest of f. That the row
is fed in one step is the model's reading (log 4). -/
def Obligations.LongRequestIsRejectedBySmallReceiver : Prop :=
  ∀ (s : State) (cmd : Byte) (payload : List Byte), s.receiverIdle → s.cfg.sink.returns = true →
    s.cfg.capacity < payload.length → payload.length ≤ 65535 →
    ∃ f, encode s.cfg (.req cmd payload) = some f ∧
      (payload.length ≤ 512 → Machine.encodeFrame cmd payload = .ok f) ∧
      feedAll (f.take 3) s = .next { s with tx := s.tx ++ [s.writeOf (ackFrame s.cfg.errBufferFull [])] } ∧
      exec (.req cmd payload) s = feedAll (f.drop 3)
        { s with ret := .nothing, tx := s.tx ++ [s.writeOf (ackFrame s.cfg.errBufferFull [])] }

/-- In every state exec of RESET answers the state with st = WaitStart, no buffered byte, n, len, cmd, cur = 0;
everything else but the model's ret is unchanged. -/
def Obligations.ResetReinitialisesTheReceiver : Prop :=
  ∀ s : State, exec .reset s =
    .next { s with st := .waitStart, buf := [], n := 0#16, len := 0#16, cmd := 0#8, cur := 0#16, ret := .nothing }

/-- For every state, capacity, sink k and context: with capacity <= 512 exec of INIT answers the state with those
three set, the receiver re-initialised, TX and DSP empty; with capacity > 512, and with no sink, it is the refusal
initRejected. -/
def Obligations.InitConstructsOrRefuses : Prop :=
  ∀ (s : State) (capacity : Nat) (k : Sink) (context : Token),
    (capacity ≤ 512 → exec (.init capacity (some k) context) s =
      .next { s with
        st := .waitStart, buf := [], n := 0#16, len := 0#16, cmd := 0#8, cur := 0#16
        cfg := { s.cfg with capacity := capacity, sink := k, context := context }
        tx := [], dsp := [], ret := .made }) ∧
    (512 < capacity → exec (.init capacity (some k) context) s = .refused .initRejected) ∧
    exec (.init capacity none context) s = .refused .initRejected

/-- State.reset is idle with empty TX and DSP. After INIT the receiver is idle, TX and DSP are empty and the
configuration is as given; after RESET it is idle and TX, DSP and the configuration are unchanged; a power cycle is a
step to what INIT with the same arguments gives. -/
def Obligations.ThreeWaysLeadToTheResetState : Prop :=
  (State.reset.receiverIdle ∧ State.reset.tx = [] ∧ State.reset.dsp = []) ∧
  (∀ (s : State) (capacity : Nat) (k : Sink) (context : Token), capacity ≤ 512 →
    ∃ t, exec (.init capacity (some k) context) s = .next t ∧ t.receiverIdle ∧ t.tx = [] ∧ t.dsp = [] ∧
      t.cfg.capacity = capacity ∧ t.cfg.sink = k ∧ t.cfg.context = context) ∧
  (∀ s : State, ∃ t, exec .reset s = .next t ∧ t.receiverIdle ∧ t.tx = s.tx ∧ t.dsp = s.dsp ∧ t.cfg = s.cfg) ∧
  (∀ (s : State) (rest : List Request), s.pending = .powerCycle :: rest → s.cfg.capacity ≤ 512 →
    ∃ t, step s = .next t ∧ t.receiverIdle ∧ t.tx = [] ∧ t.dsp = [] ∧ t.cfg = s.cfg ∧
      exec (.init s.cfg.capacity (some s.cfg.sink) s.cfg.context) { s with pending := rest } = .next t)

/-- For every instruction that is no INIT and every state, if exec answers a next state then its configuration is the
same; R17 says the configuration is immutable after INIT. -/
def Obligations.OnlyInitChangesTheConfiguration : Prop :=
  ∀ (i : Instr) (s t : State), (∀ capacity sink context, i ≠ .init capacity sink context) →
    exec i s = .next t → t.cfg = s.cfg

/-- For every pure operation and any two states with the same MAX_ACK_EXTRA, exec hands back one and the same result
in both and changes nothing else in either; and a RESET after a RESET leaves the state the first one left. FEED_BYTE
is not idempotent: in WaitStart two start markers do not leave what one leaves. -/
def Obligations.PureOperationsIgnoreTheReceiver : Prop :=
  (∀ (c b : Byte) (bs : List Byte),
    ∀ i ∈ [Instr.crc8Update c b, .crc8 bs, .encodeFrame c bs, .encodeAck c bs, .verifyFrameCrc bs, .decodeFrame bs],
      ∀ s u : State, s.cfg.maxAckExtra = u.cfg.maxAckExtra → ∃ r : Ret,
        exec i s = .next { s with ret := r } ∧ exec i u = .next { u with ret := r }) ∧
  (∀ s t : State, exec .reset s = .next t → exec .reset t = .next t) ∧
  (∀ s t u : State, s.Inv → s.st = .waitStart → exec (.feedByte 0xA5#8) s = .next t →
    exec (.feedByte 0xA5#8) t = .next u → u ≠ t)

/-- For every state the rows CMD.EXEC, CMD.PING, CMD.RESET and the three QUERY rows are FEED_BYTE of 0x10, 0x20, 0xFF
and the three open codes; in WaitCommand with room in the buffer each completes with cmd set to its code, the byte at
position n, cur = 0 and st by len. That a code row stands for the byte at RX is the model's reading (log 5). -/
def Obligations.CommandCodesAreStoredAsCommand : Prop :=
  ∀ (s : State) (i : Instr) (code : Byte),
    (i, code) ∈ [(Instr.cmdExec, 0x10#8), (.cmdPing, 0x20#8), (.cmdReset, 0xFF#8),
      (.cmdQueryStack, Config.cmdQueryStack), (.cmdQueryMemory, Config.cmdQueryMemory),
      (.cmdQueryWord, Config.cmdQueryWord)] →
    exec i s = exec (.feedByte code) s ∧
    (s.st = .waitCommand → s.n.toNat < frameBufSize s.cfg → exec i s =
      .next { s with
        st := if s.len = 0#16 then .waitChecksum else .waitPayload
        buf := s.buf.write s.n.toNat code, n := s.n + 1#16, cmd := code, cur := 0#16, ret := .nothing })

/-- For every state and every extra payload the rows ERR.OK, ERR.GENERAL_ERROR, ERR.INVALID_FRAME and ERR.VM_ERROR
complete, and only ret changes: it is ENCODE_ACK(code, extra), the frame when |extra| <= MAX_ACK_EXTRA and fail above;
ERR.BUFFER_FULL completes likewise with no extra payload. That a code row stands for the building of its
acknowledgement is the model's reading (log 6); that it emits nothing is R109. -/
def Obligations.ErrorCodesBuildTheirAcknowledgement : Prop :=
  ∀ (s : State) (extra : List Byte),
    (∀ (i : Instr) (code : Byte),
      (i, code) ∈ [(Instr.errOk extra, s.cfg.errOk), (.errGeneral extra, s.cfg.errGeneral),
        (.errInvalidFrame extra, s.cfg.errInvalidFrame), (.errVm extra, s.cfg.errVm)] →
      (extra.length ≤ s.cfg.maxAckExtra → exec i s = .next { s with ret := .encoded (.ok (ackFrame code extra)) }) ∧
      (s.cfg.maxAckExtra < extra.length → exec i s = .next { s with ret := .encoded .fail })) ∧
    exec .errBufferFull s = .next { s with ret := .encoded (.ok (ackFrame s.cfg.errBufferFull [])) }

/-- ENCODE_ACK(ERR_BUFFER_FULL, []) is [0xA5, 0x01, 0x00, cc, kk] with cc the code and kk = CRC8([0x01, 0x00, cc]),
under every MAX_ACK_EXTRA; at the default codes the two responses are the bytes R137 prints. -/
def Obligations.BlockResponsesAreByteExact : Prop :=
  (∀ (p : Params), encodeAck p.maxAckExtra p.errBufferFull [] =
    .ok [0xA5#8, 0x01#8, 0x00#8, p.errBufferFull, crc8 [0x01#8, 0x00#8, p.errBufferFull]]) ∧
  encodeAck State.reset.cfg.maxAckExtra State.reset.cfg.errBufferFull [] =
    .ok [0xA5#8, 0x01#8, 0x00#8, 0x03#8, 0x62#8] ∧
  encodeAck State.reset.cfg.maxAckExtra State.reset.cfg.errInvalidFrame [] =
    .ok [0xA5#8, 0x01#8, 0x00#8, 0x02#8, 0x65#8]

/-- In every state with STUB connected, the answer to 0x20 and 0xFF is (ERR_OK, []) and to every other command
(ERR_GENERAL, []), whatever the payload; with the oracle connected there is an answer and its extra payload is at most
MAX_ACK_EXTRA bytes. -/
def Obligations.DispatchersAnswerWithinTheirRules : Prop :=
  (∀ (s : State) (cmd : Byte) (payload : List Byte), s.cfg.dispatcher = .stub →
    s.answer cmd payload = some (if cmd = 0x20#8 ∨ cmd = 0xFF#8 then (s.cfg.errOk, []) else (s.cfg.errGeneral, []))) ∧
  (∀ (s : State) (cmd : Byte) (payload : List Byte), s.cfg.dispatcher = .oracle →
    ∃ code extra, s.answer cmd payload = some (code, extra) ∧ extra.length ≤ s.cfg.maxAckExtra)

/-- Step is exec of the instruction the next request decodes to, at the state without that request. A byte at RX
decodes to FEED_BYTE of it, an operation to itself, a power cycle to INIT with the configured arguments. Coded bytes
decode by the receiver's state: one byte to its numbered command code or else the row it selects, more to the request
frame they begin; coded bytes that are no row's encoding are fed, the first now and the others as the next requests.
With nothing pending step answers the state itself. The queue of requests and the idle step are the model's (log 1),
and so is the reading of coded bytes (log 2). -/
def Obligations.StepRunsTheDecodedRequest : Prop :=
  (∀ (s : State) (r : Request) (rest : List Request), s.pending = r :: rest →
    step s = exec (s.decodeRequest r).1 { s with pending := (s.decodeRequest r).2 ++ rest }) ∧
  (∀ (s : State) (b : Byte), s.decodeRequest (.rx b) = (.feedByte b, [])) ∧
  (∀ (s : State) (i : Instr), s.decodeRequest (.op i) = (i, [])) ∧
  (∀ s : State, s.decodeRequest .powerCycle = (.init s.cfg.capacity (some s.cfg.sink) s.cfg.context, [])) ∧
  (∀ (s : State) (b : Byte), s.decodeCoded b [] = (decodeNumberedCode b).orElse (fun _ => s.decodeByte b)) ∧
  (∀ (s : State) (b c : Byte) (more : List Byte), s.decodeCoded b (c :: more) = decodeFrameStart (b :: c :: more)) ∧
  (∀ (s : State) (b : Byte) (more : List Byte) (i : Instr), s.decodeCoded b more = some i →
    s.decodeRequest (.coded b more) = (i, [])) ∧
  (∀ (s : State) (b : Byte) (more : List Byte), s.decodeCoded b more = none →
    s.decodeRequest (.coded b more) = (.feedByte b, more.map .rx)) ∧
  (∀ s : State, s.pending = [] → step s = .next s)

/-- In every state of the invariant a FEED_BYTE(b) that completes moves st and n along one row of R12's table, the row
its state, byte, length and cursor choose; RESET and an accepted INIT lead to WaitStart with n = 0; the pure
operations leave st and n as they are, and so do the error code rows, whose reading as pure is the model's (log 6). -/
def Obligations.ReceiverMovesAlongTheTable : Prop :=
  (∀ (s t : State) (b : Byte), s.Inv → exec (.feedByte b) s = .next t →
    (s.st = .waitStart ∧ b ≠ 0xA5#8 ∧ t.st = .waitStart ∧ t.n = s.n) ∨
    (s.st = .waitStart ∧ b = 0xA5#8 ∧ t.st = .waitLenLow ∧ t.n = 1#16) ∨
    (s.st = .waitLenLow ∧ s.n = 1#16 ∧ t.st = .waitLenHigh ∧ t.n = 2#16) ∨
    (s.st = .waitLenHigh ∧ s.n = 2#16 ∧ ∃ lo : Byte, s.buf.read 1 = some lo ∧
      ((lo.toNat + 256 * b.toNat ≤ s.cfg.capacity ∧ t.st = .waitCommand ∧ t.n = 3#16) ∨
       (s.cfg.capacity < lo.toNat + 256 * b.toNat ∧ t.st = .waitStart ∧ t.n = 0#16))) ∨
    (s.st = .waitCommand ∧ s.n = 3#16 ∧ t.n = 4#16 ∧
      t.st = if s.len = 0#16 then .waitChecksum else .waitPayload) ∨
    (s.st = .waitPayload ∧ t.n.toNat = s.n.toNat + 1 ∧
      t.st = if s.cur.toNat + 1 = s.len.toNat then .waitChecksum else .waitPayload) ∨
    (s.st = .waitChecksum ∧ t.st = .waitStart ∧ t.n = 0#16)) ∧
  (∀ (s : State) (capacity : Nat) (k : Sink) (context : Token), capacity ≤ 512 →
    ∀ i ∈ [Instr.reset, .init capacity (some k) context], ∃ t, exec i s = .next t ∧ t.st = .waitStart ∧ t.n = 0#16) ∧
  (∀ (s : State) (c b : Byte) (bs : List Byte),
    ∀ i ∈ [Instr.crc8Update c b, .crc8 bs, .encodeFrame c bs, .encodeAck c bs, .verifyFrameCrc bs, .decodeFrame bs,
        .errOk bs, .errGeneral bs, .errInvalidFrame bs, .errBufferFull, .errVm bs],
      ∃ t, exec i s = .next t ∧ t.st = s.st ∧ t.n = s.n)

/-- For every instruction other than INIT (which starts an empty TX) and the two frame rows (many bytes in one step,
log 4), in every state: if exec answers a next state, then TX is unchanged, or st was WaitChecksum or WaitLenHigh, TX
has exactly one more element and the receiver is in the reset state. -/
def Obligations.NothingElseIsEmitted : Prop :=
  ∀ (i : Instr) (s t : State), (∀ capacity sink context, i ≠ .init capacity sink context) →
    (∀ c bs, i ≠ .req c bs ∧ i ≠ .ack c bs) → exec i s = .next t →
    t.tx = s.tx ∨ ((s.st = .waitChecksum ∨ s.st = .waitLenHigh) ∧ (∃ w, t.tx = s.tx ++ [w]) ∧ t.receiverIdle)
end

