-- ==== Sys2Proof/Laws/Codec.lean ====
section
/-! SUPPORT. The small lemmas of the operand forms and of the codec's building blocks. -/

namespace Sys2Proof.Machine

/-- Joining two length octets (30_encoding.md R49). -/
theorem fromLe16_toNat (lo hi : Byte) : (fromLe16 lo hi).toNat = lo.toNat + 256 * hi.toNat := by
  have hd : (lo.setWidth 16) &&& (hi.setWidth 16 <<< 8) = 0#16 := by
    ext i hi'
    simp only [BitVec.getElem_and, BitVec.getElem_setWidth, BitVec.getElem_shiftLeft, BitVec.getElem_zero]
    by_cases h : i < 8
    · simp [h]
    · simp [BitVec.getLsbD_of_ge lo i (by omega)]
  rw [fromLe16, ← BitVec.add_eq_or_of_and_eq_zero _ _ hd, BitVec.toNat_add, BitVec.toNat_shiftLeft,
    Nat.shiftLeft_eq, BitVec.toNat_setWidth, BitVec.toNat_setWidth]
  have h1 := lo.isLt
  have h2 := hi.isLt
  omega

/-- Splitting a 16-bit number into its two octets and joining them gives it back (41_frame_codec.md R87). -/
theorem le16_join (v : Nat) (h : v < 65536) :
    (BitVec.ofNat 8 v : Byte).toNat + 256 * (BitVec.ofNat 8 (v >>> 8) : Byte).toNat = v := by
  simp only [BitVec.toNat_ofNat, Nat.shiftRight_eq_div_pow]
  omega

@[simp] theorem byteAt_cons_zero (a : Byte) (s : List Byte) : byteAt (a :: s) 0 = a := rfl

@[simp] theorem byteAt_cons_succ (a : Byte) (s : List Byte) (i : Nat) : byteAt (a :: s) (i + 1) = byteAt s i := rfl

/-- The last element of a sequence that ends in `k`. -/
theorem byteAt_append_singleton (s : List Byte) (k : Byte) : byteAt (s ++ [k]) s.length = k := by
  simp [byteAt]

@[simp] theorem length_frameBody (n : Nat) (c : Byte) (rest : List Byte) :
    (frameBody n c rest).length = 3 + rest.length := by
  simp [frameBody, le16]; omega

@[simp] theorem length_frameBytes (n : Nat) (c : Byte) (rest : List Byte) :
    (frameBytes n c rest).length = 5 + rest.length := by
  simp [frameBytes]; omega

/-- The bytes of a frame, written out. -/
theorem frameBytes_eq (n : Nat) (c : Byte) (rest : List Byte) :
    frameBytes n c rest =
      startMarker :: BitVec.ofNat 8 n :: BitVec.ofNat 8 (n >>> 8) :: c :: (rest ++ [crc8 (frameBody n c rest)]) := by
  simp [frameBytes, frameBody, le16]

@[simp] theorem crc8From_nil (c : Byte) : crc8From c [] = c := rfl

@[simp] theorem crc8From_cons (c b : Byte) (bs : List Byte) : crc8From c (b :: bs) = crc8From (crc8Update c b) bs := rfl

theorem crc8From_append (c : Byte) (xs ys : List Byte) : crc8From c (xs ++ ys) = crc8From (crc8From c xs) ys :=
  List.foldl_append

/-- VERIFY_FRAME_CRC on a buffer given as its first byte, the covered span and the last byte. -/
theorem verifyFrameCrc_split (a k : Byte) (span : List Byte) :
    verifyFrameCrc (a :: (span ++ [k])) = (decide (3 ≤ span.length) && crc8 span == k) := by
  have h1 : slice (a :: (span ++ [k])) 1 ((a :: (span ++ [k])).length - 2) = span := by
    simp [slice]
  have h2 : byteAt (a :: (span ++ [k])) ((a :: (span ++ [k])).length - 1) = k := by
    simpa using byteAt_append_singleton span k
  unfold verifyFrameCrc
  rw [h1, h2]
  simp only [List.length_cons, List.length_append, List.length_nil, minFrame]
  by_cases h : 3 ≤ span.length
  · rw [if_neg (by omega)]; simp [h]
  · rw [if_pos (by omega)]; simp [h]

end Sys2Proof.Machine
end

