-- ==== Sys2Proof/Laws/Memory.lean ====
section
/-! SUPPORT. The laws of the frame buffer: a read after a write, and the canonical form kept by every operation. -/

namespace Sys2Proof.Machine

@[simp] theorem Memory.read_nil (a : Nat) : Memory.read [] a = none := rfl

theorem Memory.read_cons (k : Nat) (v : Byte) (m : Memory) (a : Nat) :
    Memory.read ((k, v) :: m) a = if k = a then some v else Memory.read m a := rfl

/-- A write changes the position it writes and no other. -/
theorem Memory.read_write (m : Memory) (a : Nat) (b : Byte) (x : Nat) :
    (m.write a b).read x = if x = a then some b else m.read x := by
  induction m with
  | nil => simp only [Memory.write, Memory.read_cons, Memory.read_nil, eq_comm]
  | cons c m ih =>
    obtain ⟨k, v⟩ := c
    simp only [Memory.write]
    split
    · simp only [Memory.read_cons, eq_comm (a := a)]
    · split
      · simp only [Memory.read_cons]
        grind
      · simp only [Memory.read_cons, ih]
        grind

@[simp] theorem Memory.read_write_same (m : Memory) (a : Nat) (b : Byte) : (m.write a b).read a = some b := by
  simp [Memory.read_write]

theorem Memory.read_write_other (m : Memory) (a x : Nat) (b : Byte) (h : x ≠ a) :
    (m.write a b).read x = m.read x := by
  simp [Memory.read_write, h]

/-- Every position of a written buffer was listed before or is the one written. -/
theorem Memory.mem_write (m : Memory) (a : Nat) (b : Byte) (c : Host.Cell) (h : c ∈ m.write a b) :
    c = (a, b) ∨ c ∈ m := by
  induction m with
  | nil => simpa [Memory.write] using h
  | cons d m ih =>
    obtain ⟨k, v⟩ := d
    simp only [Memory.write] at h
    split at h
    · simpa using h
    · split at h <;> grind

/-- A write keeps the canonical form. -/
theorem Memory.write_wf (m : Memory) (a : Nat) (b : Byte) (h : m.wf) : (m.write a b).wf := by
  induction m with
  | nil => simp [Memory.write]
  | cons d m ih =>
    obtain ⟨k, v⟩ := d
    have hk := List.pairwise_cons.mp h
    simp only [Memory.write]
    split
    · exact List.pairwise_cons.mpr ⟨by grind, h⟩
    · split
      · exact List.pairwise_cons.mpr ⟨by grind, hk.2⟩
      · refine List.pairwise_cons.mpr ⟨fun c hc => ?_, ih hk.2⟩
        rcases Memory.mem_write m a b c hc with rfl | hc
        · simp only; omega
        · exact hk.1 c hc

/-- The empty buffer is canonical. -/
theorem Memory.nil_wf : Memory.wf [] := List.Pairwise.nil

/-- Appending at the end of a buffer whose positions are `0 .. n - 1`. -/
theorem Memory.write_at_end (m : Memory) (n : Nat) (b : Byte) (h : ∀ c ∈ m, c.1 < n) :
    m.write n b = m ++ [(n, b)] := by
  induction m with
  | nil => rfl
  | cons d m ih =>
    obtain ⟨k, v⟩ := d
    have hk : k < n := h (k, v) (by simp)
    simp only [Memory.write, if_neg (show ¬ n < k by omega), if_neg (show ¬ n = k by omega), List.cons_append]
    rw [ih (fun c hc => h c (by simp [hc]))]

@[simp] theorem Memory.readRange_zero (m : Memory) (a : Nat) : m.readRange a 0 = some [] := rfl

theorem Memory.readRange_succ (m : Memory) (a k : Nat) :
    m.readRange a (k + 1) =
      match m.read a, m.readRange (a + 1) k with
      | some b, some bs => some (b :: bs)
      | _, _ => none := rfl

/-- A range read answers `bs` exactly when each of its positions holds the byte of `bs` there. -/
theorem Memory.readRange_eq_some (m : Memory) (a : Nat) (bs : List Byte) :
    m.readRange a bs.length = some bs ↔ ∀ i < bs.length, m.read (a + i) = bs[i]? := by
  induction bs generalizing a with
  | nil => simp
  | cons b bs ih =>
    have hlen : (b :: bs).length = bs.length + 1 := rfl
    simp only [hlen, Memory.readRange_succ]
    constructor
    · intro h i hi
      cases h1 : m.read a with
      | none => simp [h1] at h
      | some v =>
        cases h2 : m.readRange (a + 1) bs.length with
        | none => simp [h1, h2] at h
        | some vs =>
          simp only [h1, h2, Option.some.injEq, List.cons.injEq] at h
          obtain ⟨rfl, rfl⟩ := h
          cases i with
          | zero => simpa using h1
          | succ i => simpa [Nat.add_assoc, Nat.add_comm 1] using (ih (a + 1)).mp h2 i (by omega)
    · intro h
      have h0 : m.read a = some b := by simpa using h 0 (by omega)
      have h2 : m.readRange (a + 1) bs.length = some bs :=
        (ih (a + 1)).mpr fun i hi => by
          simpa [Nat.add_assoc, Nat.add_comm 1] using h (i + 1) (by omega)
      simp only [h0, h2]

/-- A range read is as long as it was asked to be. -/
theorem Memory.length_of_readRange (m : Memory) (a k : Nat) (bs : List Byte) (h : m.readRange a k = some bs) :
    bs.length = k := by
  induction k generalizing a bs with
  | zero => simp only [readRange_zero, Option.some.injEq] at h; subst h; rfl
  | succ k ih =>
    rw [Memory.readRange_succ] at h
    split at h
    · rename_i b cs _ h2
      simp only [Option.some.injEq] at h
      subst h
      simp [ih _ _ h2]
    · cases h

end Sys2Proof.Machine
end

