-- ==== Sys2Proof/Laws/State.lean ====
section
/-! SUPPORT. One lemma per field per update of State, so that no later proof unfolds a record update. -/

namespace Sys2Proof.Machine

/-! ### clear -/
@[simp] theorem State.clear_st (s : State) : s.clear.st = s.st := rfl
@[simp] theorem State.clear_buf (s : State) : s.clear.buf = [] := rfl
@[simp] theorem State.clear_n (s : State) : s.clear.n = 0#16 := rfl
@[simp] theorem State.clear_len (s : State) : s.clear.len = s.len := rfl
@[simp] theorem State.clear_cmd (s : State) : s.clear.cmd = s.cmd := rfl
@[simp] theorem State.clear_cur (s : State) : s.clear.cur = s.cur := rfl
@[simp] theorem State.clear_cfg (s : State) : s.clear.cfg = s.cfg := rfl
@[simp] theorem State.clear_tx (s : State) : s.clear.tx = s.tx := rfl
@[simp] theorem State.clear_dsp (s : State) : s.clear.dsp = s.dsp := rfl
@[simp] theorem State.clear_ret (s : State) : s.clear.ret = s.ret := rfl
@[simp] theorem State.clear_pending (s : State) : s.clear.pending = s.pending := rfl
@[simp] theorem State.clear_draws (s : State) : s.clear.draws = s.draws := rfl

/-! ### reinit -/
@[simp] theorem State.reinit_st (s : State) : s.reinit.st = .waitStart := rfl
@[simp] theorem State.reinit_buf (s : State) : s.reinit.buf = [] := rfl
@[simp] theorem State.reinit_n (s : State) : s.reinit.n = 0#16 := rfl
@[simp] theorem State.reinit_len (s : State) : s.reinit.len = 0#16 := rfl
@[simp] theorem State.reinit_cmd (s : State) : s.reinit.cmd = 0#8 := rfl
@[simp] theorem State.reinit_cur (s : State) : s.reinit.cur = 0#16 := rfl
@[simp] theorem State.reinit_cfg (s : State) : s.reinit.cfg = s.cfg := rfl
@[simp] theorem State.reinit_tx (s : State) : s.reinit.tx = s.tx := rfl
@[simp] theorem State.reinit_dsp (s : State) : s.reinit.dsp = s.dsp := rfl
@[simp] theorem State.reinit_ret (s : State) : s.reinit.ret = s.ret := rfl
@[simp] theorem State.reinit_pending (s : State) : s.reinit.pending = s.pending := rfl
@[simp] theorem State.reinit_draws (s : State) : s.reinit.draws = s.draws := rfl

/-! ### goto -/
@[simp] theorem State.goto_st (x : RxState) (s : State) : (s.goto x).st = x := rfl
@[simp] theorem State.goto_buf (x : RxState) (s : State) : (s.goto x).buf = s.buf := rfl
@[simp] theorem State.goto_n (x : RxState) (s : State) : (s.goto x).n = s.n := rfl
@[simp] theorem State.goto_len (x : RxState) (s : State) : (s.goto x).len = s.len := rfl
@[simp] theorem State.goto_cmd (x : RxState) (s : State) : (s.goto x).cmd = s.cmd := rfl
@[simp] theorem State.goto_cur (x : RxState) (s : State) : (s.goto x).cur = s.cur := rfl
@[simp] theorem State.goto_cfg (x : RxState) (s : State) : (s.goto x).cfg = s.cfg := rfl
@[simp] theorem State.goto_tx (x : RxState) (s : State) : (s.goto x).tx = s.tx := rfl
@[simp] theorem State.goto_dsp (x : RxState) (s : State) : (s.goto x).dsp = s.dsp := rfl
@[simp] theorem State.goto_ret (x : RxState) (s : State) : (s.goto x).ret = s.ret := rfl
@[simp] theorem State.goto_pending (x : RxState) (s : State) : (s.goto x).pending = s.pending := rfl
@[simp] theorem State.goto_draws (x : RxState) (s : State) : (s.goto x).draws = s.draws := rfl

/-! ### takeCommand -/
@[simp] theorem State.takeCommand_st (b : Byte) (s : State) : (s.takeCommand b).st = s.st := rfl
@[simp] theorem State.takeCommand_buf (b : Byte) (s : State) : (s.takeCommand b).buf = s.buf := rfl
@[simp] theorem State.takeCommand_n (b : Byte) (s : State) : (s.takeCommand b).n = s.n := rfl
@[simp] theorem State.takeCommand_len (b : Byte) (s : State) : (s.takeCommand b).len = s.len := rfl
@[simp] theorem State.takeCommand_cmd (b : Byte) (s : State) : (s.takeCommand b).cmd = b := rfl
@[simp] theorem State.takeCommand_cur (b : Byte) (s : State) : (s.takeCommand b).cur = 0#16 := rfl
@[simp] theorem State.takeCommand_cfg (b : Byte) (s : State) : (s.takeCommand b).cfg = s.cfg := rfl
@[simp] theorem State.takeCommand_tx (b : Byte) (s : State) : (s.takeCommand b).tx = s.tx := rfl
@[simp] theorem State.takeCommand_dsp (b : Byte) (s : State) : (s.takeCommand b).dsp = s.dsp := rfl
@[simp] theorem State.takeCommand_ret (b : Byte) (s : State) : (s.takeCommand b).ret = s.ret := rfl
@[simp] theorem State.takeCommand_pending (b : Byte) (s : State) : (s.takeCommand b).pending = s.pending := rfl
@[simp] theorem State.takeCommand_draws (b : Byte) (s : State) : (s.takeCommand b).draws = s.draws := rfl

/-! ### advance -/
@[simp] theorem State.advance_st (s : State) : s.advance.st = s.st := rfl
@[simp] theorem State.advance_buf (s : State) : s.advance.buf = s.buf := rfl
@[simp] theorem State.advance_n (s : State) : s.advance.n = s.n := rfl
@[simp] theorem State.advance_len (s : State) : s.advance.len = s.len := rfl
@[simp] theorem State.advance_cmd (s : State) : s.advance.cmd = s.cmd := rfl
@[simp] theorem State.advance_cur (s : State) : s.advance.cur = s.cur + 1#16 := rfl
@[simp] theorem State.advance_cfg (s : State) : s.advance.cfg = s.cfg := rfl
@[simp] theorem State.advance_tx (s : State) : s.advance.tx = s.tx := rfl
@[simp] theorem State.advance_dsp (s : State) : s.advance.dsp = s.dsp := rfl
@[simp] theorem State.advance_ret (s : State) : s.advance.ret = s.ret := rfl
@[simp] theorem State.advance_pending (s : State) : s.advance.pending = s.pending := rfl
@[simp] theorem State.advance_draws (s : State) : s.advance.draws = s.draws := rfl

/-! ### returning -/
@[simp] theorem State.returning_st (r : Ret) (s : State) : (s.returning r).st = s.st := rfl
@[simp] theorem State.returning_buf (r : Ret) (s : State) : (s.returning r).buf = s.buf := rfl
@[simp] theorem State.returning_n (r : Ret) (s : State) : (s.returning r).n = s.n := rfl
@[simp] theorem State.returning_len (r : Ret) (s : State) : (s.returning r).len = s.len := rfl
@[simp] theorem State.returning_cmd (r : Ret) (s : State) : (s.returning r).cmd = s.cmd := rfl
@[simp] theorem State.returning_cur (r : Ret) (s : State) : (s.returning r).cur = s.cur := rfl
@[simp] theorem State.returning_cfg (r : Ret) (s : State) : (s.returning r).cfg = s.cfg := rfl
@[simp] theorem State.returning_tx (r : Ret) (s : State) : (s.returning r).tx = s.tx := rfl
@[simp] theorem State.returning_dsp (r : Ret) (s : State) : (s.returning r).dsp = s.dsp := rfl
@[simp] theorem State.returning_ret (r : Ret) (s : State) : (s.returning r).ret = r := rfl
@[simp] theorem State.returning_pending (r : Ret) (s : State) : (s.returning r).pending = s.pending := rfl
@[simp] theorem State.returning_draws (r : Ret) (s : State) : (s.returning r).draws = s.draws := rfl

/-! ### present -/
@[simp] theorem State.present_st (r : Request) (s : State) : (s.present r).st = s.st := rfl
@[simp] theorem State.present_buf (r : Request) (s : State) : (s.present r).buf = s.buf := rfl
@[simp] theorem State.present_n (r : Request) (s : State) : (s.present r).n = s.n := rfl
@[simp] theorem State.present_len (r : Request) (s : State) : (s.present r).len = s.len := rfl
@[simp] theorem State.present_cmd (r : Request) (s : State) : (s.present r).cmd = s.cmd := rfl
@[simp] theorem State.present_cur (r : Request) (s : State) : (s.present r).cur = s.cur := rfl
@[simp] theorem State.present_cfg (r : Request) (s : State) : (s.present r).cfg = s.cfg := rfl
@[simp] theorem State.present_tx (r : Request) (s : State) : (s.present r).tx = s.tx := rfl
@[simp] theorem State.present_dsp (r : Request) (s : State) : (s.present r).dsp = s.dsp := rfl
@[simp] theorem State.present_ret (r : Request) (s : State) : (s.present r).ret = s.ret := rfl
@[simp] theorem State.present_pending (r : Request) (s : State) : (s.present r).pending = r :: s.pending := rfl
@[simp] theorem State.present_draws (r : Request) (s : State) : (s.present r).draws = s.draws := rfl

/-! ### logDispatch -/
@[simp] theorem State.logDispatch_st (c : Byte) (p : List Byte) (s : State) : (s.logDispatch c p).st = s.st := rfl
@[simp] theorem State.logDispatch_buf (c : Byte) (p : List Byte) (s : State) : (s.logDispatch c p).buf = s.buf := rfl
@[simp] theorem State.logDispatch_n (c : Byte) (p : List Byte) (s : State) : (s.logDispatch c p).n = s.n := rfl
@[simp] theorem State.logDispatch_len (c : Byte) (p : List Byte) (s : State) : (s.logDispatch c p).len = s.len := rfl
@[simp] theorem State.logDispatch_cmd (c : Byte) (p : List Byte) (s : State) : (s.logDispatch c p).cmd = s.cmd := rfl
@[simp] theorem State.logDispatch_cur (c : Byte) (p : List Byte) (s : State) : (s.logDispatch c p).cur = s.cur := rfl
@[simp] theorem State.logDispatch_cfg (c : Byte) (p : List Byte) (s : State) : (s.logDispatch c p).cfg = s.cfg := rfl
@[simp] theorem State.logDispatch_tx (c : Byte) (p : List Byte) (s : State) : (s.logDispatch c p).tx = s.tx := rfl
@[simp] theorem State.logDispatch_dsp (c : Byte) (p : List Byte) (s : State) : (s.logDispatch c p).dsp = s.dsp ++ [{ cmd := c, payload := p }] := rfl
@[simp] theorem State.logDispatch_ret (c : Byte) (p : List Byte) (s : State) : (s.logDispatch c p).ret = s.ret := rfl
@[simp] theorem State.logDispatch_pending (c : Byte) (p : List Byte) (s : State) : (s.logDispatch c p).pending = s.pending := rfl
@[simp] theorem State.logDispatch_draws (c : Byte) (p : List Byte) (s : State) : (s.logDispatch c p).draws = s.draws + 1 := rfl

end Sys2Proof.Machine
end

