-- ==== Sys2Proof/Laws/Ops.lean ====
section
/-! SUPPORT. One lemma per shared operation of Machine/Ops.lean: everything it can answer. -/

namespace Sys2Proof.Machine

@[simp] theorem andThen_next (s : State) (f : State → Result) : andThen (.next s) f = f s := rfl

@[simp] theorem andThen_fault (e : Fault) (f : State → Result) : andThen (.fault e) f = .fault e := rfl

@[simp] theorem andThen_refused (e : Refusal) (f : State → Result) : andThen (.refused e) f = .refused e := rfl

theorem andThen_assoc (r : Result) (f g : State → Result) :
    andThen (andThen r f) g = andThen r (fun s => andThen (f s) g) := by
  cases r <;> rfl

/-- A sequence completes exactly when its first part does and then its second. -/
theorem andThen_eq_next {r : Result} {f : State → Result} {t : State} :
    andThen r f = .next t ↔ ∃ s, r = .next s ∧ f s = .next t := by
  cases r <;> simp

/-- A sequence faults in its first part, or in its second after the first completed. -/
theorem andThen_eq_fault {r : Result} {f : State → Result} {e : Fault} :
    andThen r f = .fault e ↔ r = .fault e ∨ ∃ s, r = .next s ∧ f s = .fault e := by
  cases r <;> simp

/-- `append` inside the buffer. -/
theorem State.append_of_room {s : State} {b : Byte} (h : s.n.toNat < frameBufSize s.cfg) :
    s.append b = .next { s with buf := s.buf.write s.n.toNat b, n := s.n + 1#16 } := by
  simp [State.append, h]

/-- If `append` answers a next state, the position existed and it is the state with the byte there. -/
theorem State.append_eq_next {s t : State} {b : Byte} :
    s.append b = .next t ↔
      s.n.toNat < frameBufSize s.cfg ∧ t = { s with buf := s.buf.write s.n.toNat b, n := s.n + 1#16 } := by
  unfold State.append
  split
  · rename_i h
    simp only [Host.Outcome.next.injEq, h, true_and]
    exact eq_comm
  · rename_i h
    simp [h]

/-- `append` never refuses, and faults only past the buffer. -/
theorem State.append_eq_fault {s : State} {b : Byte} {e : Fault} :
    s.append b = .fault e ↔ ¬ s.n.toNat < frameBufSize s.cfg ∧ e = .bufferOverflow := by
  unfold State.append
  split
  · rename_i h; simp [h]
  · rename_i h
    simp only [Host.Outcome.fault.injEq, h, not_false_eq_true, true_and]
    exact eq_comm

/-- `composeLength` loads the length the buffer declares. -/
theorem State.composeLength_eq_next {s t : State} :
    s.composeLength = .next t ↔ ∃ v, s.buf.declaredLength = some v ∧ t = { s with len := v } := by
  unfold State.composeLength
  split
  · rename_i v h
    simp only [Host.Outcome.next.injEq, h, Option.some.injEq, exists_eq_left']
    exact eq_comm
  · rename_i h; simp [h]

/-- The length field of a buffer whose first three positions are known. -/
theorem Memory.declaredLength_of {m : Memory} {lo hi : Byte} (h1 : m.read 1 = some lo) (h2 : m.read 2 = some hi) :
    m.declaredLength = some (fromLe16 lo hi) := by
  simp [Memory.declaredLength, h1, h2]

/-- `emit` completes exactly when there is something to send and the SINK returns; TX then has one more element. -/
theorem State.emit_eq_next {s t : State} {r : EncodeResult} :
    s.emit r = .next t ↔
      ∃ bytes, r = .ok bytes ∧ s.cfg.sink.returns = true ∧
        t = { s with tx := s.tx ++ [{ sink := s.cfg.sink.id, context := s.cfg.context, bytes := bytes }] } := by
  cases r with
  | fail => simp [State.emit]
  | ok bytes =>
    simp only [State.emit]
    split
    · rename_i h
      simp only [Host.Outcome.next.injEq, EncodeResult.ok.injEq, h, true_and, exists_eq_left']
      exact eq_comm
    · rename_i h; simp [h]

/-- `respond` sends one acknowledgement, when it can be encoded and the SINK returns. -/
theorem State.respond_of_contract {s : State} {code : Byte} {extra : List Byte}
    (hx : extra.length ≤ s.cfg.maxAckExtra) (hs : s.cfg.sink.returns = true) :
    s.respond code extra =
      .next { s with
        tx := s.tx ++ [{ sink := s.cfg.sink.id, context := s.cfg.context, bytes := ackFrame code extra }] } := by
  simp [State.respond, encodeAck, State.emit, hs, Nat.not_lt.mpr hx]

/-- If `respond` answers a next state, it has sent exactly one acknowledgement. -/
theorem State.respond_eq_next {s t : State} {code : Byte} {extra : List Byte} :
    s.respond code extra = .next t ↔
      extra.length ≤ s.cfg.maxAckExtra ∧ s.cfg.sink.returns = true ∧
        t = { s with
          tx := s.tx ++ [{ sink := s.cfg.sink.id, context := s.cfg.context, bytes := ackFrame code extra }] } := by
  rw [State.respond, State.emit_eq_next]
  unfold encodeAck
  constructor
  · rintro ⟨bytes, h, hs, rfl⟩
    split at h
    · cases h
    · cases h
      exact ⟨by omega, hs, rfl⟩
  · rintro ⟨hx, hs, rfl⟩
    exact ⟨_, if_neg (by omega), hs, rfl⟩

/-- If `raiseResponse` answers a next state, one acknowledgement was sent and the receiver is re-initialised. -/
theorem State.raiseResponse_eq_next {s t : State} {code : Byte} {extra : List Byte} :
    s.raiseResponse code extra = .next t ↔
      extra.length ≤ s.cfg.maxAckExtra ∧ s.cfg.sink.returns = true ∧
        t = { s.reinit with
          tx := s.tx ++ [{ sink := s.cfg.sink.id, context := s.cfg.context, bytes := ackFrame code extra }] } := by
  rw [State.raiseResponse, andThen_eq_next]
  constructor
  · rintro ⟨u, hu, ht⟩
    obtain ⟨hx, hs, rfl⟩ := State.respond_eq_next.mp hu
    cases ht
    exact ⟨hx, hs, rfl⟩
  · rintro ⟨hx, hs, rfl⟩
    exact ⟨_, State.respond_eq_next.mpr ⟨hx, hs, rfl⟩, rfl⟩

/-- If `dispatch` answers a next state, the DISPATCHER answered, the call is logged and its answer sent. -/
theorem State.dispatch_eq_next {s t : State} {cmd : Byte} {payload : List Byte} :
    s.dispatch cmd payload = .next t ↔
      ∃ code extra, s.answer cmd payload = some (code, extra) ∧ extra.length ≤ s.cfg.maxAckExtra ∧
        s.cfg.sink.returns = true ∧
        t = { s.logDispatch cmd payload with
          tx := s.tx ++ [{ sink := s.cfg.sink.id, context := s.cfg.context, bytes := ackFrame code extra }] } := by
  unfold State.dispatch
  cases h : s.answer cmd payload with
  | none => simp
  | some a =>
    obtain ⟨code, extra⟩ := a
    simp only [State.respond_eq_next, Option.some.injEq, Prod.mk.injEq, State.logDispatch_cfg, State.logDispatch_tx]
    constructor
    · rintro ⟨hx, hs, rfl⟩
      exact ⟨code, extra, ⟨rfl, rfl⟩, hx, hs, rfl⟩
    · rintro ⟨c, x, ⟨rfl, rfl⟩, hx, hs, rfl⟩
      exact ⟨hx, hs, rfl⟩

@[simp] theorem State.decodeRequest_rx (s : State) (b : Byte) : s.decodeRequest (.rx b) = (.feedByte b, []) := rfl

@[simp] theorem State.decodeRequest_op (s : State) (i : Instr) : s.decodeRequest (.op i) = (i, []) := rfl

@[simp] theorem State.decodeRequest_powerCycle (s : State) :
    s.decodeRequest .powerCycle = (.init s.cfg.capacity (some s.cfg.sink) s.cfg.context, []) := rfl

/-- Coded bytes that decode. -/
theorem State.decodeRequest_coded_of_some {s : State} {b : Byte} {more : List Byte} {i : Instr}
    (h : s.decodeCoded b more = some i) : s.decodeRequest (.coded b more) = (i, []) := by
  simp [State.decodeRequest, h]

/-- Coded bytes that decode to no row are fed. -/
theorem State.decodeRequest_coded_of_none {s : State} {b : Byte} {more : List Byte} (h : s.decodeCoded b more = none) :
    s.decodeRequest (.coded b more) = (.feedByte b, more.map .rx) := by
  simp [State.decodeRequest, h]

/-- The next instruction is what the head of `pending` stands for. -/
theorem State.fetch_eq_some {s t : State} {i : Instr} :
    s.fetch = some (i, t) ↔ ∃ r rest, s.pending = r :: rest ∧ i = (s.decodeRequest r).1 ∧
      t = { s with pending := (s.decodeRequest r).2 ++ rest } := by
  unfold State.fetch
  cases h : s.pending with
  | nil => simp
  | cons q rest =>
    simp only [Option.some.injEq, Prod.mk.injEq, List.cons.injEq]
    constructor
    · rintro ⟨rfl, rfl⟩; exact ⟨q, rest, ⟨rfl, rfl⟩, rfl, rfl⟩
    · rintro ⟨_, _, ⟨rfl, rfl⟩, rfl, rfl⟩; exact ⟨rfl, rfl⟩

end Sys2Proof.Machine
end

