-- ==== Sys2Proof/Laws/PerInstr.lean ====
section
/-! SUPPORT. Per instruction: how many bytes its encoding has (30_encoding.md R46, R47, R51, R61). -/

namespace Sys2Proof.Laws

/-- The number of bytes the table gives the instruction; none for the nine operations, which have no bit pattern (R61). -/
def encodedSize : Instr → Option Nat
  | .crc8Update _ _ => none
  | .crc8 _ => none
  | .encodeFrame _ _ => none
  | .encodeAck _ _ => none
  | .verifyFrameCrc _ => none
  | .decodeFrame _ => none
  | .feedByte _ => none
  | .reset => none
  | .init _ _ _ => none
  | .rxDiscard _ => some 1
  | .rxStart => some 1
  | .rxLenLo _ => some 1
  | .rxLenHi _ => some 1
  | .rxLenHiFull _ => some 1
  | .rxCmd _ => some 1
  | .rxCmdEmpty _ => some 1
  | .rxPayload _ => some 1
  | .rxPayloadLast _ => some 1
  | .rxCrc _ => some 1
  | .req _ payload => some (5 + payload.length)
  | .ack _ extra => some (5 + extra.length)
  | .cmdExec => some 1
  | .cmdPing => some 1
  | .cmdQueryStack => some 1
  | .cmdQueryMemory => some 1
  | .cmdQueryWord => some 1
  | .cmdReset => some 1
  | .errOk extra => some (5 + extra.length)
  | .errGeneral extra => some (5 + extra.length)
  | .errInvalidFrame extra => some (5 + extra.length)
  | .errBufferFull => some 5
  | .errVm extra => some (5 + extra.length)

/-- Under every parameter record the encoder writes exactly that many bytes. -/
def EncodingSize.Statement (i : Instr) : Prop := ∀ p : Params, (encode p i).map List.length = encodedSize i

theorem EncodingSize.crc8Update (c b : Byte) : EncodingSize.Statement (.crc8Update c b) :=
  fun _ => rfl

theorem EncodingSize.crc8 (bytes : List Byte) : EncodingSize.Statement (.crc8 bytes) :=
  fun _ => rfl

theorem EncodingSize.encodeFrame (cmd : Byte) (payload : List Byte) : EncodingSize.Statement (.encodeFrame cmd payload) :=
  fun _ => rfl

theorem EncodingSize.encodeAck (code : Byte) (extra : List Byte) : EncodingSize.Statement (.encodeAck code extra) :=
  fun _ => rfl

theorem EncodingSize.verifyFrameCrc (buffer : List Byte) : EncodingSize.Statement (.verifyFrameCrc buffer) :=
  fun _ => rfl

theorem EncodingSize.decodeFrame (buffer : List Byte) : EncodingSize.Statement (.decodeFrame buffer) :=
  fun _ => rfl

theorem EncodingSize.feedByte (b : Byte) : EncodingSize.Statement (.feedByte b) :=
  fun _ => rfl

theorem EncodingSize.reset : EncodingSize.Statement .reset :=
  fun _ => rfl

theorem EncodingSize.init (capacity : Nat) (sink : Option Sink) (context : Token) : EncodingSize.Statement (.init capacity sink context) :=
  fun _ => rfl

theorem EncodingSize.rxDiscard (b : Byte) : EncodingSize.Statement (.rxDiscard b) :=
  fun _ => rfl

theorem EncodingSize.rxStart : EncodingSize.Statement .rxStart :=
  fun _ => rfl

theorem EncodingSize.rxLenLo (b : Byte) : EncodingSize.Statement (.rxLenLo b) :=
  fun _ => rfl

theorem EncodingSize.rxLenHi (b : Byte) : EncodingSize.Statement (.rxLenHi b) :=
  fun _ => rfl

theorem EncodingSize.rxLenHiFull (b : Byte) : EncodingSize.Statement (.rxLenHiFull b) :=
  fun _ => rfl

theorem EncodingSize.rxCmd (b : Byte) : EncodingSize.Statement (.rxCmd b) :=
  fun _ => rfl

theorem EncodingSize.rxCmdEmpty (b : Byte) : EncodingSize.Statement (.rxCmdEmpty b) :=
  fun _ => rfl

theorem EncodingSize.rxPayload (b : Byte) : EncodingSize.Statement (.rxPayload b) :=
  fun _ => rfl

theorem EncodingSize.rxPayloadLast (b : Byte) : EncodingSize.Statement (.rxPayloadLast b) :=
  fun _ => rfl

theorem EncodingSize.rxCrc (b : Byte) : EncodingSize.Statement (.rxCrc b) :=
  fun _ => rfl

theorem EncodingSize.req (cmd : Byte) (payload : List Byte) : EncodingSize.Statement (.req cmd payload) :=
  fun _ => by simp [encode, encodedSize, Machine.requestFrame]

theorem EncodingSize.ack (code : Byte) (extra : List Byte) : EncodingSize.Statement (.ack code extra) :=
  fun _ => by simp [encode, encodedSize, Machine.ackFrame]

theorem EncodingSize.cmdExec : EncodingSize.Statement .cmdExec :=
  fun _ => rfl

theorem EncodingSize.cmdPing : EncodingSize.Statement .cmdPing :=
  fun _ => rfl

theorem EncodingSize.cmdQueryStack : EncodingSize.Statement .cmdQueryStack :=
  fun _ => rfl

theorem EncodingSize.cmdQueryMemory : EncodingSize.Statement .cmdQueryMemory :=
  fun _ => rfl

theorem EncodingSize.cmdQueryWord : EncodingSize.Statement .cmdQueryWord :=
  fun _ => rfl

theorem EncodingSize.cmdReset : EncodingSize.Statement .cmdReset :=
  fun _ => rfl

theorem EncodingSize.errOk (extra : List Byte) : EncodingSize.Statement (.errOk extra) :=
  fun _ => by simp [encode, encodedSize, Machine.ackFrame]

theorem EncodingSize.errGeneral (extra : List Byte) : EncodingSize.Statement (.errGeneral extra) :=
  fun _ => by simp [encode, encodedSize, Machine.ackFrame]

theorem EncodingSize.errInvalidFrame (extra : List Byte) : EncodingSize.Statement (.errInvalidFrame extra) :=
  fun _ => by simp [encode, encodedSize, Machine.ackFrame]

theorem EncodingSize.errBufferFull : EncodingSize.Statement .errBufferFull :=
  fun _ => by simp [encode, encodedSize, Machine.ackFrame]

theorem EncodingSize.errVm (extra : List Byte) : EncodingSize.Statement (.errVm extra) :=
  fun _ => by simp [encode, encodedSize, Machine.ackFrame]

end Sys2Proof.Laws
end

