-- ==== Sys2Proof/Laws/Returning.lean ====
section
/-! SUPPORT. No rule of the receiver reads or writes the model's field `ret`: each commutes with setting it. -/

namespace Sys2Proof.Machine

/-- `f` neither reads nor writes `ret`. -/
def retStable (f : State → Result) : Prop :=
  ∀ (r : Ret) (s : State), f (s.returning r) = andThen (f s) (fun t => .next (t.returning r))

theorem retStable_andThen {f g : State → Result} (hf : retStable f) (hg : retStable g) :
    retStable (fun s => andThen (f s) g) := by
  intro r s
  simp only [hf r s]
  cases f s with
  | next u => simp [hg r u]
  | fault e => rfl
  | refused e => rfl

theorem retStable_append (b : Byte) : retStable (State.append b) := by
  intro r s
  by_cases h : s.n.toNat < frameBufSize s.cfg <;> simp [State.append, State.returning, h]

theorem retStable_composeLength : retStable State.composeLength := by
  intro r s
  cases h : s.buf.declaredLength <;> simp [State.composeLength, State.returning, h]

theorem retStable_emit (e : EncodeResult) : retStable (State.emit e) := by
  intro r s
  cases e with
  | fail => rfl
  | ok bytes => by_cases h : s.cfg.sink.returns <;> simp [State.emit, State.returning, h]

theorem retStable_respond (code : Byte) (extra : List Byte) : retStable (State.respond code extra) := fun r s =>
  retStable_emit (encodeAck s.cfg.maxAckExtra code extra) r s

theorem retStable_dispatch (cmd : Byte) (payload : List Byte) : retStable (State.dispatch cmd payload) := by
  intro r s
  have ha : (s.returning r).answer cmd payload = s.answer cmd payload := rfl
  simp only [State.dispatch, ha]
  cases s.answer cmd payload with
  | none => rfl
  | some a => exact retStable_respond a.1 a.2 r (s.logDispatch cmd payload)

theorem retStable_completeFrame : retStable completeFrame := by
  intro r s
  simp only [completeFrame, State.returning_buf, State.returning_n, State.returning_len, State.returning_cmd,
    State.returning_cfg]
  cases s.buf.readRange 0 s.n.toNat with
  | none => rfl
  | some frame =>
    simp only
    split
    · cases s.buf.readRange 4 s.len.toNat with
      | none => rfl
      | some payload => exact retStable_dispatch s.cmd payload r s
    · exact retStable_respond s.cfg.errInvalidFrame [] r s

theorem retStable_rejectLength : retStable rejectLength := fun r s =>
  retStable_andThen (retStable_respond s.cfg.errBufferFull []) (g := fun t => .next t.reinit) (fun _ _ => rfl) r s

/-- FEED_BYTE's selection neither reads nor writes `ret`. -/
theorem retStable_feed (b : Byte) : retStable (feed b) := by
  intro r s
  simp only [feed, State.returning_st]
  cases s.st with
  | waitStart =>
    simp only
    split
    · exact retStable_andThen (retStable_append startMarker) (g := fun t => .next (t.goto .waitLenLow))
        (fun _ _ => rfl) r s.clear
    · rfl
  | waitLenLow =>
    exact retStable_andThen (retStable_append b) (g := fun t => .next (t.goto .waitLenHigh)) (fun _ _ => rfl) r s
  | waitLenHigh =>
    refine retStable_andThen (retStable_andThen (retStable_append b) retStable_composeLength)
      (g := fun t => if t.len.toNat > t.cfg.capacity then rejectLength t else acceptLength t) (fun r t => ?_) r s
    by_cases hc : t.len.toNat > t.cfg.capacity
    · simp only [State.returning_len, State.returning_cfg, hc, if_true]
      exact retStable_rejectLength r t
    · simp only [State.returning_len, State.returning_cfg, hc, if_false]
      rfl
  | waitCommand =>
    exact retStable_andThen
      (retStable_andThen (retStable_append b) (g := fun t => .next (t.takeCommand b)) (fun _ _ => rfl))
      (g := fun t => .next (t.goto (if payloadEmpty t.len then .waitChecksum else .waitPayload))) (fun _ _ => rfl) r s
  | waitPayload =>
    refine retStable_andThen
      (retStable_andThen (retStable_append b) (g := fun t => .next t.advance) (fun _ _ => rfl))
      (g := fun t => .next (if t.cur = t.len then t.goto .waitChecksum else t)) (fun r t => ?_) r s
    by_cases hc : t.cur = t.len
    · simp only [State.returning_cur, State.returning_len, andThen_next, hc, if_true]; rfl
    · simp only [State.returning_cur, State.returning_len, andThen_next, hc, if_false]
  | waitChecksum =>
    exact retStable_andThen (retStable_andThen (retStable_append b) retStable_completeFrame)
      (g := fun t => .next t.reinit) (fun _ _ => rfl) r s

theorem retStable_feedAll (bs : List Byte) : retStable (feedAll bs) := by
  induction bs with
  | nil => intro r s; rfl
  | cons b bs ih => exact retStable_andThen (retStable_feed b) ih

/-- Feeding a concatenation is feeding its parts in order. -/
theorem feedAll_append (xs ys : List Byte) (s : State) : feedAll (xs ++ ys) s = andThen (feedAll xs s) (feedAll ys) := by
  induction xs generalizing s with
  | nil => rfl
  | cons x xs ih =>
    simp only [List.cons_append, feedAll, andThen_assoc]
    congr 1
    exact funext ih

end Sys2Proof.Machine
end

