-- ==== Sys2Proof/Tests/Slice0.lean ====
section
/-! SUPPORT. Tests: ill-formed terms refused, words written out from the spec's encodings, the vectors of 95_test_vectors.md, and a
witness for the hypotheses of each statement. -/

namespace Sys2Proof.Tests

open Sys2Proof Sys2Proof.Machine

set_option Elab.async false
set_option synthInstance.maxSize 2000

/-! ### Helpers -/

/-- The state after reset with the spec's STUB connected (the harness of 95_test_vectors.md). -/
def stubbed (capacity : Nat) : State :=
  { State.reset with cfg := { defaultParams with capacity := capacity, dispatcher := .stub } }

/-- The state an outcome leads to, `s` where it stopped. -/
def landing (s : State) : Result → State
  | .next t => t
  | .fault _ => s
  | .refused _ => s

/-- The state after feeding `bs` with the given capacity. -/
def afterBytes (capacity : Nat) (bs : List Byte) : State := landing (stubbed capacity) (feedAll bs (stubbed capacity))

/-- `s` with another SINK or DISPATCHER connected. -/
def connected (sinkReturns : Bool) (d : Dispatcher) (s : State) : State :=
  { s with cfg := { s.cfg with sink := { id := 0, returns := sinkReturns }, dispatcher := d } }

/-- The bytes of the elements of TX. -/
def sentBytes (s : State) : List (List Byte) := s.tx.map SinkWrite.bytes

/-- The pairs of DSP. -/
def requested (s : State) : List (Byte × List Byte) := s.dsp.map (fun d => (d.cmd, d.payload))

/-- What instruction `i` hands back in `s`, if it completes. -/
def handedBack (i : Instr) (s : State) : Option Ret :=
  match exec i s with
  | .next t => some t.ret
  | .fault _ => none
  | .refused _ => none

/-! ### Well-formedness: an ill-formed term for each check -/

theorem test_wf_discard_of_start_marker : Instr.wf (.rxDiscard 0xA5#8) = false := by decide
theorem test_wf_request_too_long : Instr.wf (.req 0x10#8 (List.replicate 513 0#8)) = false := by decide +kernel
theorem test_wf_ack_too_long : Instr.wf (.ack 0x00#8 (List.replicate 65535 0#8)) = false := by
  simp only [Instr.wf, List.length_replicate]; decide
theorem test_wf_response_too_long (extra : List Byte) (h : extra = List.replicate 65535 0#8) :
    Instr.wf (.errOk extra) = false ∧ Instr.wf (.errGeneral extra) = false ∧ Instr.wf (.errInvalidFrame extra) = false ∧
    Instr.wf (.errVm extra) = false := by
  have : extra.length = 65535 := by rw [h, List.length_replicate]
  simp only [Instr.wf, this]; decide
theorem test_wf_init_capacity : Instr.wf (.init 513 (some ⟨0, true⟩) 0) = false := by decide
theorem test_wf_init_without_sink : Instr.wf (.init 512 none 0) = false := by decide
theorem test_wf_params_capacity : Params.wf { defaultParams with capacity := 513 } = false := by decide
theorem test_wf_params_max_ack_extra : Params.wf { defaultParams with maxAckExtra := 65535 } = false := by decide
theorem test_wf_params_equal_codes : Params.wf { defaultParams with errVm := 0x00#8 } = false := by decide
theorem test_contract_silent : Params.contract { defaultParams with dispatcher := .silent } = false := by decide
theorem test_contract_sink : Params.contract { defaultParams with sink := ⟨0, false⟩ } = false := by decide
theorem test_contract_extra :
    Params.contract { defaultParams with dispatcher := .fixed 0#8 [1#8], maxAckExtra := 0 } = false := by decide

/-! ### Decoding: words written out from the encodings of 30_encoding.md and of the table -/

/-- `1010 0101` is the start marker; any other byte in WaitStart is discarded (R97, R98). -/
theorem test_decode_wait_start :
    selectTransition .waitStart false 0#16 0#16 0b10100101#8 = .rxStart ∧
    selectTransition .waitStart false 0#16 0#16 0b10100100#8 = .rxDiscard 0xA4#8 := by decide

/-- In the later states the same word `1010 0101` is data of the field that is due (R99 to R105). -/
theorem test_decode_marker_as_data :
    selectTransition .waitLenLow false 0#16 0#16 0b10100101#8 = .rxLenLo 0xA5#8 ∧
    selectTransition .waitLenHigh true 0#16 0#16 0b10100101#8 = .rxLenHi 0xA5#8 ∧
    selectTransition .waitLenHigh false 0#16 0#16 0b10100101#8 = .rxLenHiFull 0xA5#8 ∧
    selectTransition .waitChecksum false 0#16 0#16 0b10100101#8 = .rxCrc 0xA5#8 := by decide

/-- The conditions `len = 0`, `cur + 1 = len` (R102, R103). -/
theorem test_decode_by_condition :
    selectTransition .waitCommand false 0#16 0#16 0b00010000#8 = .rxCmdEmpty 0x10#8 ∧
    selectTransition .waitCommand false 1#16 0#16 0b00010000#8 = .rxCmd 0x10#8 ∧
    selectTransition .waitPayload false 2#16 0#16 0b00010000#8 = .rxPayload 0x10#8 ∧
    selectTransition .waitPayload false 2#16 1#16 0b00010000#8 = .rxPayloadLast 0x10#8 := by decide

/-- REQ: `10100101 llllllll hhhhhhhh cccccccc (pppppppp)*L kkkkkkkk`, V-ENC-3. -/
theorem test_decode_req :
    decodeRequestFrame [0b10100101#8, 0b00000011#8, 0b00000000#8, 0b00010000#8, 0b00000001#8, 0b00000010#8, 0b00000011#8,
      0b01010100#8] = some (.req 0x10#8 [1#8, 2#8, 3#8]) := by decide +kernel

/-- ACK: `10100101 llllllll hhhhhhhh eeeeeeee (xxxxxxxx)*X kkkkkkkk`, V-ACK-6. -/
theorem test_decode_ack :
    decodeAcknowledgement [0b10100101#8, 0b00000100#8, 0b00000000#8, 0b00000000#8, 0b00000001#8, 0b00000111#8,
      0b00000000#8, 0b10100100#8] = some (.ack 0x00#8 [1#8, 7#8, 0#8]) := by decide +kernel

/-- The three numbered command codes (R51); a byte that is none of them. -/
theorem test_decode_command_codes :
    decodeCmdCode 0b00010000#8 = some .cmdExec ∧ decodeCmdCode 0b00100000#8 = some .cmdPing ∧
    decodeCmdCode 0b11111111#8 = some .cmdReset ∧ decodeNumberedCode 0b00010001#8 = none := by decide

/-- The parameter of QUERY_STACK decodes to its row, unless it has the value of a numbered code (R61). -/
theorem test_decode_query_code (h : decodeNumberedCode Config.cmdQueryStack = none) :
    decodeCmdCode Config.cmdQueryStack = some .cmdQueryStack := by
  simp [decodeCmdCode, h]

/-- The five responses at the default codes, V-ACK-1 to V-ACK-5; a code outside the set is none of them. -/
theorem test_decode_responses :
    decodeResponse defaultParams [0xA5#8, 1#8, 0#8, 0b00000000#8, 0x6B#8] = some (.errOk []) ∧
    decodeResponse defaultParams [0xA5#8, 1#8, 0#8, 0b00000001#8, 0x6C#8] = some (.errGeneral []) ∧
    decodeResponse defaultParams [0xA5#8, 1#8, 0#8, 0b00000010#8, 0x65#8] = some (.errInvalidFrame []) ∧
    decodeResponse defaultParams [0xA5#8, 1#8, 0#8, 0b00000011#8, 0x62#8] = some .errBufferFull ∧
    decodeErrCode defaultParams 0b00000011#8 [7#8] = some .errBufferFull ∧
    decodeResponse defaultParams [0xA5#8, 1#8, 0#8, 0b00000100#8, 0x77#8] = some (.errVm []) ∧
    decodeResponse defaultParams [0xA5#8, 1#8, 0#8, 0b11111111#8, 0x98#8] = none := by decide +kernel

/-- A table word: byte 0 in bits 7..0; a REQ whose words are not all given reads 0 for the rest. -/
theorem test_decode_table_words :
    decodeTableWord 8 0x5A = some (.rxDiscard 0x5A#8) ∧
    decodeTableWord 40 0xE0200000A5 = some (.req 0x20#8 []) ∧
    decodeTableWord 24 0x0000A5 = some (.req 0x00#8 []) ∧
    decodeTableWord 40 0xE1200000A5 = none := by decide +kernel

/-- A placed word is fetched, decoded and run by the very next step: RX.START, and the REQ of V-RX-9 with STUB. -/
theorem test_step_runs_placed_word :
    landing (stubbed 0) (step (State.reset.withFetchWord 8 0xA5)) = landing State.reset (exec .rxStart State.reset) ∧
    landing (stubbed 0) (step ((stubbed 512).withFetchWord 40 0xF3FF0000A5)) =
      landing (stubbed 512) (exec (.req 0xFF#8 []) (stubbed 512)) ∧
    sentBytes (landing (stubbed 0) (step ((stubbed 512).withFetchWord 40 0xF3FF0000A5))) =
      [[0xA5#8, 0x01#8, 0x00#8, 0x00#8, 0x6B#8]] := by decide +kernel

/-! ### The pure operations -/

/-- V-UPD-3 and V-UPD-10. -/
theorem test_crc8_update :
    handedBack (.crc8Update 0x00#8 0x80#8) State.reset = some (.byte 0x89#8) ∧
    handedBack (.crc8Update 0x97#8 0x32#8) State.reset = some (.byte 0x72#8) := by decide +kernel

/-- V-CRC-1, V-CRC-10 and V-CRC-18. -/
theorem test_crc8 :
    crc8 [] = 0x00#8 ∧
    crc8 [0x31#8, 0x32#8, 0x33#8, 0x34#8, 0x35#8, 0x36#8, 0x37#8, 0x38#8, 0x39#8] = 0xF4#8 ∧
    crc8 [0x03#8, 0x00#8, 0x10#8, 0x01#8, 0x02#8, 0x03#8] = 0x54#8 := by decide +kernel

/-- V-ENC-3 and V-ENC-15. -/
theorem test_encode_frame :
    handedBack (.encodeFrame 0x10#8 [1#8, 2#8, 3#8]) State.reset =
      some (.encoded (.ok [0xA5#8, 0x03#8, 0x00#8, 0x10#8, 0x01#8, 0x02#8, 0x03#8, 0x54#8])) ∧
    handedBack (.encodeFrame 0xA5#8 [0xA5#8, 0xA5#8]) State.reset =
      some (.encoded (.ok [0xA5#8, 0x02#8, 0x00#8, 0xA5#8, 0xA5#8, 0xA5#8, 0x67#8])) := by decide +kernel

/-- The header of V-ENC-11 (the length's low octet comes first), and V-ENC-13. -/
theorem test_encode_frame_lengths :
    (requestFrame 0x10#8 (List.replicate 256 0#8)).take 4 = [0xA5#8, 0x00#8, 0x01#8, 0x10#8] ∧
    Machine.encodeFrame 0x10#8 (List.replicate 513 0#8) = .fail := by decide +kernel

/-- V-ACK-6; one byte more than a MAX_ACK_EXTRA of 2 (R80). -/
theorem test_encode_ack :
    handedBack (.encodeAck 0x00#8 [1#8, 7#8, 0#8]) State.reset =
      some (.encoded (.ok [0xA5#8, 0x04#8, 0x00#8, 0x00#8, 0x01#8, 0x07#8, 0x00#8, 0xA4#8])) ∧
    Machine.encodeAck 2 0x00#8 [1#8, 7#8, 0#8] = .fail := by decide +kernel

/-- V-VER-1, V-VER-4, V-VER-8, V-VER-9 and V-VER-10. -/
theorem test_verify_frame_crc :
    handedBack (.verifyFrameCrc [0xA5#8, 0x00#8, 0x00#8, 0x20#8, 0xE0#8]) State.reset = some (.verdict true) ∧
    verifyFrameCrc [0xA5#8, 0x03#8, 0x00#8, 0x10#8, 0x01#8, 0x02#8, 0x07#8, 0x54#8] = false ∧
    verifyFrameCrc [0xA5#8, 0x00#8, 0x20#8, 0xE0#8] = false ∧
    verifyFrameCrc [0x00#8, 0x00#8, 0x00#8, 0x20#8, 0xE0#8] = true ∧
    verifyFrameCrc [0xA5#8, 0x05#8, 0x00#8, 0x10#8, 0xB0#8] = true := by decide +kernel

/-- V-DEC-2, V-DEC-5, V-DEC-6, V-DEC-8 and V-DEC-9. -/
theorem test_decode_frame :
    handedBack (.decodeFrame [0xA5#8, 0x03#8, 0x00#8, 0x10#8, 0x01#8, 0x02#8, 0x03#8, 0x54#8]) State.reset =
      some (.decoded (.ok 0x10#8 [1#8, 2#8, 3#8])) ∧
    Machine.decodeFrame [0x00#8, 0x00#8, 0x00#8, 0x20#8, 0xE0#8] = .invalid ∧
    Machine.decodeFrame [0xA5#8, 0x05#8, 0x00#8, 0x10#8, 0xB0#8] = .invalid ∧
    Machine.decodeFrame [0xA5#8, 0x00#8, 0x00#8, 0x20#8, 0xE1#8] = .invalid ∧
    Machine.decodeFrame [0xA5#8, 0x01#8, 0x00#8, 0x00#8, 0x6B#8] = .invalid := by decide +kernel

/-! ### The receiver, one step each -/

/-- 13 is discarded in the reset state (first step of V-RX-12). -/
theorem test_rx_discard : exec (.rxDiscard 0x13#8) State.reset = .next State.reset := rfl

/-- First step of V-RX-1. -/
theorem test_rx_start :
    (landing (stubbed 512) (exec .rxStart (stubbed 512))).st = .waitLenLow ∧
    (landing (stubbed 512) (exec .rxStart (stubbed 512))).buf = [(0, 0xA5#8)] := by decide +kernel

/-- `A5` in WaitLenLow is a length octet (V-RX-16). -/
theorem test_rx_len_lo :
    (landing (stubbed 512) (exec (.rxLenLo 0xA5#8) (afterBytes 512 [0xA5#8]))).buf = [(0, 0xA5#8), (1, 0xA5#8)] := by
  decide +kernel

/-- V-RX-5: 512 is accepted. -/
theorem test_rx_len_hi :
    (landing (stubbed 512) (exec (.rxLenHi 0x02#8) (afterBytes 512 [0xA5#8, 0x00#8]))).len = 512#16 ∧
    (landing (stubbed 512) (exec (.rxLenHi 0x02#8) (afterBytes 512 [0xA5#8, 0x00#8]))).st = .waitCommand := by
  decide +kernel

/-- V-RX-4: 513 is rejected at the third byte. -/
theorem test_rx_len_hi_full :
    sentBytes (landing (stubbed 512) (exec (.rxLenHiFull 0x02#8) (afterBytes 512 [0xA5#8, 0x01#8]))) =
      [[0xA5#8, 0x01#8, 0x00#8, 0x03#8, 0x62#8]] ∧
    (landing (stubbed 512) (exec (.rxLenHiFull 0x02#8) (afterBytes 512 [0xA5#8, 0x01#8]))).receiverIdle := by
  decide +kernel

/-- V-RX-20: `A5` in WaitCommand is a command; with `len = 0` the checksum is due next. -/
theorem test_rx_cmd_empty :
    (landing (stubbed 512) (exec (.rxCmdEmpty 0xA5#8) (afterBytes 512 [0xA5#8, 0x00#8, 0x00#8]))).cmd = 0xA5#8 ∧
    (landing (stubbed 512) (exec (.rxCmdEmpty 0xA5#8) (afterBytes 512 [0xA5#8, 0x00#8, 0x00#8]))).st = .waitChecksum := by
  decide +kernel

/-- The fourth step of V-RX-2. -/
theorem test_rx_cmd :
    (landing (stubbed 512) (exec (.rxCmd 0x10#8) (afterBytes 512 [0xA5#8, 0x03#8, 0x00#8]))).st = .waitPayload := by
  decide +kernel

/-- V-RX-22. -/
theorem test_rx_payload :
    (landing (stubbed 512) (exec (.rxPayload 0x01#8) (afterBytes 512 [0xA5#8, 0x03#8, 0x00#8, 0x10#8]))).cur = 1#16 ∧
    (landing (stubbed 512) (exec (.rxPayload 0x01#8) (afterBytes 512 [0xA5#8, 0x03#8, 0x00#8, 0x10#8]))).st = .waitPayload := by
  decide +kernel

/-- V-RX-23. -/
theorem test_rx_payload_last :
    (landing (stubbed 512) (exec (.rxPayloadLast 0x03#8)
      (afterBytes 512 [0xA5#8, 0x03#8, 0x00#8, 0x10#8, 0x01#8, 0x02#8]))).st = .waitChecksum := by decide +kernel

/-- V-RX-3: a wrong checksum is answered INVALID_FRAME, with no dispatch. -/
theorem test_rx_crc_bad :
    sentBytes (landing (stubbed 512) (exec (.rxCrc 0xE1#8) (afterBytes 512 [0xA5#8, 0x00#8, 0x00#8, 0x20#8]))) =
      [[0xA5#8, 0x01#8, 0x00#8, 0x02#8, 0x65#8]] ∧
    (landing (stubbed 512) (exec (.rxCrc 0xE1#8) (afterBytes 512 [0xA5#8, 0x00#8, 0x00#8, 0x20#8]))).dsp = [] := by
  decide +kernel

/-- V-RX-1: the checksum of PING, through FEED_BYTE. -/
theorem test_feed_byte_completes_ping :
    sentBytes (landing (stubbed 512) (exec (.feedByte 0xE0#8) (afterBytes 512 [0xA5#8, 0x00#8, 0x00#8, 0x20#8]))) =
      [[0xA5#8, 0x01#8, 0x00#8, 0x00#8, 0x6B#8]] ∧
    requested (landing (stubbed 512) (exec (.feedByte 0xE0#8) (afterBytes 512 [0xA5#8, 0x00#8, 0x00#8, 0x20#8]))) =
      [(0x20#8, [])] := by decide +kernel

/-- A row the state does not select has no meaning there (log 3). -/
theorem test_rx_not_selected : exec (.rxCrc 0xE0#8) State.reset = .refused .notSelected := rfl

/-! ### RESET, INIT, frames and codes -/

/-- RESET in mid-frame: nothing emitted, the reset state (70_reset_and_hazards.md R168). -/
theorem test_reset :
    (landing (stubbed 512) (exec .reset (afterBytes 512 [0xA5#8, 0x03#8, 0x00#8, 0x10#8]))).receiverIdle ∧
    (landing (stubbed 512) (exec .reset (afterBytes 512 [0xA5#8, 0x03#8, 0x00#8, 0x10#8]))).tx = [] := by decide +kernel

/-- INIT at the greatest capacity and one above it (43_dispatch_boundary.md R127). -/
theorem test_init :
    (landing State.reset (exec (.init 512 (some ⟨7, true⟩) 9) State.reset)).cfg.sink.id = 7 ∧
    exec (.init 513 (some ⟨7, true⟩) 9) State.reset = .refused .initRejected := ⟨rfl, rfl⟩

/-- V-CAP-1 and V-CAP-2: a receiver of capacity 4. -/
theorem test_req :
    sentBytes (landing (stubbed 4) (exec (.req 0x77#8 [9#8, 8#8, 7#8, 6#8]) (stubbed 4))) =
      [[0xA5#8, 0x01#8, 0x00#8, 0x01#8, 0x6C#8]] ∧
    sentBytes (landing (stubbed 4) (exec (.req 0x77#8 [9#8, 8#8, 7#8, 6#8, 5#8]) (stubbed 4))) =
      [[0xA5#8, 0x01#8, 0x00#8, 0x03#8, 0x62#8]] := by decide +kernel

/-- V-RX-24: ACK(OK) fed back, then 00. -/
theorem test_ack_looped_back :
    requested (landing (stubbed 512) (exec (.feedByte 0x00#8)
      (landing (stubbed 512) (exec (.ack 0x00#8 []) (stubbed 512))))) = [(0x00#8, [0x6B#8])] := by decide +kernel

/-- A command code is byte 3 of a request: PING completes as in V-RX-1, RESET as in V-RX-9. -/
theorem test_command_codes :
    (landing (stubbed 512) (exec .cmdPing (afterBytes 512 [0xA5#8, 0x00#8, 0x00#8]))).cmd = 0x20#8 ∧
    (landing (stubbed 512) (exec .cmdExec (afterBytes 512 [0xA5#8, 0x03#8, 0x00#8]))).cmd = 0x10#8 ∧
    (landing (stubbed 512) (exec .cmdReset (afterBytes 512 [0xA5#8, 0x00#8, 0x00#8]))).cmd = 0xFF#8 := by decide +kernel

/-- The three open codes are stored like any other. -/
theorem test_query_codes :
    (landing (stubbed 512) (exec .cmdQueryStack (afterBytes 512 [0xA5#8, 0x00#8, 0x00#8]))).cmd = Config.cmdQueryStack ∧
    (landing (stubbed 512) (exec .cmdQueryMemory (afterBytes 512 [0xA5#8, 0x00#8, 0x00#8]))).cmd = Config.cmdQueryMemory ∧
    (landing (stubbed 512) (exec .cmdQueryWord (afterBytes 512 [0xA5#8, 0x00#8, 0x00#8]))).cmd = Config.cmdQueryWord :=
  ⟨rfl, rfl, rfl⟩

/-- V-ACK-1 to V-ACK-5. -/
theorem test_error_codes :
    handedBack (.errOk []) State.reset = some (.encoded (.ok [0xA5#8, 0x01#8, 0x00#8, 0x00#8, 0x6B#8])) ∧
    handedBack (.errGeneral []) State.reset = some (.encoded (.ok [0xA5#8, 0x01#8, 0x00#8, 0x01#8, 0x6C#8])) ∧
    handedBack (.errInvalidFrame []) State.reset = some (.encoded (.ok [0xA5#8, 0x01#8, 0x00#8, 0x02#8, 0x65#8])) ∧
    handedBack .errBufferFull State.reset = some (.encoded (.ok [0xA5#8, 0x01#8, 0x00#8, 0x03#8, 0x62#8])) ∧
    handedBack (.errVm []) State.reset = some (.encoded (.ok [0xA5#8, 0x01#8, 0x00#8, 0x04#8, 0x77#8])) := by
  decide +kernel

/-- A request of 513 payload bytes is answered BUFFER_FULL at its third byte (30_encoding.md R49). -/
theorem test_foreign_request :
    sentBytes (afterBytes 512 ((requestFrame 0x10#8 (List.replicate 513 0#8)).take 3)) =
      [[0xA5#8, 0x01#8, 0x00#8, 0x03#8, 0x62#8]] := by decide +kernel

/-- Coded bytes that are no row's encoding are fed, the first in this step (V-RX-3 as one coded request). -/
theorem test_undecoded_bytes_are_fed :
    (landing State.reset (step (State.reset.present (.coded 0xA5#8 [0x00#8, 0x00#8, 0x20#8, 0xE1#8])))).st = .waitLenLow ∧
    (landing State.reset (step (State.reset.present (.coded 0xA5#8 [0x00#8, 0x00#8, 0x20#8, 0xE1#8])))).pending =
      [.rx 0x00#8, .rx 0x00#8, .rx 0x20#8, .rx 0xE1#8] := by decide +kernel

/-- A coded byte is read by the receiver's state: in WaitLenLow `A5` is a length octet. -/
theorem test_coded_byte_by_state :
    (afterBytes 512 [0xA5#8]).decodeCoded 0xA5#8 [] = some (.rxLenLo 0xA5#8) ∧
    (landing State.reset (step ((afterBytes 512 [0xA5#8]).withFetchWord 8 0xA5))).st = .waitLenHigh := by decide +kernel

/-! ### Witnesses: a state and operands that meet the hypotheses of each statement, clause by clause at a boundary -/

/-- EncodeFrameBuildsRequestOrFails, DecodeFrameInvertsEncodeFrame: 512 and 513 payload bytes. -/
theorem test_witness_encode_frame :
    (List.replicate 512 (0#8 : Byte)).length ≤ 512 ∧ 512 < (List.replicate 513 (0#8 : Byte)).length := by decide +kernel

/-- EncodeAckBuildsAcknowledgementOrFails: MAX_ACK_EXTRA = 1, one extra byte and two. -/
theorem test_witness_encode_ack :
    let s : State := { State.reset with cfg := { defaultParams with maxAckExtra := 1 } }
    s.cfg.maxAckExtra ≤ 65534 ∧ [0x07#8].length ≤ s.cfg.maxAckExtra ∧ s.cfg.maxAckExtra < [0x07#8, 0x07#8].length := by
  decide

/-- Crc8DetectsOneChangedByte and Crc8IsLinear: two bytes, two sequences of one length. -/
theorem test_witness_crc : (0x31#8 : Byte) ≠ 0x30#8 ∧ [0x31#8, 0x32#8].length = [0xFF#8, 0x00#8].length := by decide

/-- Crc8StreamsOverConcatenation, last clause: equal accumulators stay equal. -/
theorem test_witness_crc_stream :
    [0x31#8].foldl crc8Update 0x97#8 = [0x31#8].foldl crc8Update 0x97#8 := rfl

/-- RequestFrameHasItsLayout: the largest payload, whose high length octet is 2 and low one 0. -/
theorem test_witness_request_layout :
    (List.replicate 512 (0#8 : Byte)).length ≤ 512 ∧
    (requestFrame 0x10#8 (List.replicate 512 0#8)).take 3 = [0xA5#8, 0x00#8, 0x02#8] := by decide +kernel

/-- AckFrameHasItsLayout: the largest extra payload. -/
theorem test_witness_ack_layout : ∃ extra : List Byte, extra.length = 65534 ∧ extra.length ≤ 65534 :=
  ⟨List.replicate 65534 0#8, List.length_replicate, by rw [List.length_replicate]⟩

/-- EncodedFramesVerify: both encoders succeed. -/
theorem test_witness_encoded_frames :
    Machine.encodeFrame 0x20#8 [] = .ok [0xA5#8, 0x00#8, 0x00#8, 0x20#8, 0xE0#8] ∧
    Machine.encodeAck 0 0x00#8 [] = .ok [0xA5#8, 0x01#8, 0x00#8, 0x00#8, 0x6B#8] := by decide +kernel

/-- VerifyRejectsOneDamagedByte: V-VER-2 cut at its last payload byte. -/
theorem test_witness_damaged_byte :
    [0xA5#8, 0x03#8, 0x00#8, 0x10#8, 0x01#8, 0x02#8] ≠ ([] : List Byte) ∧ (0x03#8 : Byte) ≠ 0x07#8 ∧
    verifyFrameCrc ([0xA5#8, 0x03#8, 0x00#8, 0x10#8, 0x01#8, 0x02#8] ++ 0x03#8 :: [0x54#8]) = true := by decide +kernel

/-- FrameAndCodeRowsDecodeBack, TransitionRowsDecodeBack: legal parameters and well-formed rows. -/
theorem test_witness_decode_back :
    defaultParams.wf = true ∧ Instr.wf (.req 0x10#8 [0xA5#8]) = true ∧ Instr.wf (.ack 0x00#8 []) = true ∧
    Instr.wf (.errOk [0x01#8]) = true ∧ Instr.wf .errBufferFull = true ∧ Instr.wf (.rxDiscard 0x00#8) = true ∧
    Instr.wf (.rxCrc 0xA5#8) = true := by decide

/-- AppendExtendsTheBufferedBytes at capacity 0: the last free position, and none free. -/
theorem test_witness_append :
    (stubbed 0).cfg.capacity ≤ 512 ∧
    (afterBytes 0 [0xA5#8, 0x00#8, 0x00#8, 0x20#8]).buffers [0xA5#8, 0x00#8, 0x00#8, 0x20#8] ∧
    (afterBytes 0 [0xA5#8, 0x00#8, 0x00#8, 0x20#8]).cfg.capacity + 5 = [0xA5#8, 0x00#8, 0x00#8, 0x20#8].length + 1 ∧
    (landing (stubbed 0) ((afterBytes 0 [0xA5#8, 0x00#8, 0x00#8, 0x20#8]).append 0x00#8)).buffers
      [0xA5#8, 0x00#8, 0x00#8, 0x20#8, 0x00#8] := by decide +kernel

/-- DiscardChangesNothing and StartMarkerOpensFrame. -/
theorem test_witness_wait_start : State.reset.st = .waitStart ∧ (0xA4#8 : Byte) ≠ 0xA5#8 := by decide

/-- LengthLowOctetIsAppended. -/
theorem test_witness_len_lo :
    (afterBytes 0 [0xA5#8]).st = .waitLenLow ∧
    (afterBytes 0 [0xA5#8]).n.toNat < frameBufSize (afterBytes 0 [0xA5#8]).cfg := by decide +kernel

/-- LengthHighOctetAcceptsOrRejects: declared lengths 512 and 513 at capacity 512, 0 and 1 at capacity 0. -/
theorem test_witness_len_hi :
    (afterBytes 512 [0xA5#8, 0x00#8]).st = .waitLenHigh ∧ (afterBytes 512 [0xA5#8, 0x00#8]).n = 2#16 ∧
    (afterBytes 512 [0xA5#8, 0x00#8]).buf.read 1 = some 0x00#8 ∧
    (0x00#8 : Byte).toNat + 256 * (0x02#8 : Byte).toNat ≤ (afterBytes 512 [0xA5#8, 0x00#8]).cfg.capacity ∧
    (afterBytes 512 [0xA5#8, 0x01#8]).st = .waitLenHigh ∧ (afterBytes 512 [0xA5#8, 0x01#8]).n = 2#16 ∧
    (afterBytes 512 [0xA5#8, 0x01#8]).buf.read 1 = some 0x01#8 ∧
    (afterBytes 512 [0xA5#8, 0x01#8]).cfg.capacity < (0x01#8 : Byte).toNat + 256 * (0x02#8 : Byte).toNat ∧
    (afterBytes 512 [0xA5#8, 0x01#8]).cfg.sink.returns = true := by decide +kernel

/-- CommandByteIsStored, CommandCodesAreStoredAsCommand: declared length 0, and 1. -/
theorem test_witness_command :
    (afterBytes 0 [0xA5#8, 0x00#8, 0x00#8]).st = .waitCommand ∧ (afterBytes 0 [0xA5#8, 0x00#8, 0x00#8]).len = 0#16 ∧
    (afterBytes 0 [0xA5#8, 0x00#8, 0x00#8]).n.toNat < frameBufSize (afterBytes 0 [0xA5#8, 0x00#8, 0x00#8]).cfg ∧
    (afterBytes 1 [0xA5#8, 0x01#8, 0x00#8]).st = .waitCommand ∧ (afterBytes 1 [0xA5#8, 0x01#8, 0x00#8]).len ≠ 0#16 ∧
    (afterBytes 1 [0xA5#8, 0x01#8, 0x00#8]).n.toNat < frameBufSize (afterBytes 1 [0xA5#8, 0x01#8, 0x00#8]).cfg ∧
    (Instr.cmdPing, 0x20#8) ∈ [(Instr.cmdExec, (0x10#8 : Byte)), (.cmdPing, 0x20#8)] := by decide +kernel

/-- PayloadByteIsStored: the last payload byte of one, and the first of two. -/
theorem test_witness_payload :
    (afterBytes 1 [0xA5#8, 0x01#8, 0x00#8, 0x10#8]).st = .waitPayload ∧
    (afterBytes 1 [0xA5#8, 0x01#8, 0x00#8, 0x10#8]).cur + 1#16 = (afterBytes 1 [0xA5#8, 0x01#8, 0x00#8, 0x10#8]).len ∧
    (afterBytes 1 [0xA5#8, 0x01#8, 0x00#8, 0x10#8]).n.toNat < frameBufSize (stubbed 1).cfg ∧
    (afterBytes 2 [0xA5#8, 0x02#8, 0x00#8, 0x10#8]).st = .waitPayload ∧
    (afterBytes 2 [0xA5#8, 0x02#8, 0x00#8, 0x10#8]).cur + 1#16 ≠ (afterBytes 2 [0xA5#8, 0x02#8, 0x00#8, 0x10#8]).len ∧
    (afterBytes 2 [0xA5#8, 0x02#8, 0x00#8, 0x10#8]).n.toNat < frameBufSize (stubbed 2).cfg := by decide +kernel

/-- PING without its checksum byte, STUB connected: the state most statements about WaitChecksum use. -/
def pingDue : State := afterBytes 512 [0xA5#8, 0x00#8, 0x00#8, 0x20#8]

/-- The bytes it buffers. -/
def pingBytes : List Byte := [0xA5#8, 0x00#8, 0x00#8, 0x20#8]

/-- ChecksumByteCompletesFrame: a wrong and the right last byte, STUB's answer within the contract. -/
theorem test_witness_checksum :
    pingDue.st = .waitChecksum ∧ pingDue.cfg.capacity ≤ 512 ∧ pingDue.n.toNat < frameBufSize pingDue.cfg ∧
    pingDue.buffers pingBytes ∧ pingDue.cfg.sink.returns = true ∧ verifyFrameCrc (pingBytes ++ [0xE1#8]) = false ∧
    verifyFrameCrc (pingBytes ++ [0xE0#8]) = true ∧ pingBytes.length = 4 + pingDue.len.toNat ∧
    pingDue.answer pingDue.cmd (pingBytes.drop 4) = some (0x00#8, []) ∧
    ([] : List Byte).length ≤ pingDue.cfg.maxAckExtra := by decide +kernel

/-- The invariant holds in one reachable state of each of the six kinds (FeedByteRunsTheSelectedTransition, StepKeepsInvariant,
InvariantRulesOutBufferFaults). -/
theorem test_witness_invariant :
    (stubbed 512).Inv ∧ (afterBytes 512 [0xA5#8]).Inv ∧ (afterBytes 512 [0xA5#8, 0x01#8]).Inv ∧
    (afterBytes 512 [0xA5#8, 0x01#8, 0x00#8]).Inv ∧ (afterBytes 512 [0xA5#8, 0x01#8, 0x00#8, 0x10#8]).Inv ∧
    pingDue.Inv := by decide +kernel

/-- StepKeepsInvariant: a step that answers a next state. -/
theorem test_witness_step :
    (({ pingDue with pending := [.rx 0xE0#8] } : State)).Inv ∧
    sentBytes (landing pingDue (step { pingDue with pending := [.rx 0xE0#8] })) =
      [[0xA5#8, 0x01#8, 0x00#8, 0x00#8, 0x6B#8]] := by decide +kernel

/-- UnselectedTransitionIsRefused: in WaitChecksum neither RX.CMD nor RX.START is selected. -/
theorem test_witness_unselected :
    pingDue.decodeByte 0x20#8 ≠ some (.rxCmd 0x20#8) ∧ pingDue.decodeByte 0xA5#8 ≠ some .rxStart := by decide +kernel

/-- StartMarkerInsideFrameIsData: `A5` as low length octet, and as a checksum that ends the frame; and as high length octet it
exceeds every legal capacity. -/
theorem test_witness_marker_inside :
    (afterBytes 512 [0xA5#8]).Inv ∧ (afterBytes 512 [0xA5#8]).st = .waitLenLow ∧
    (landing State.reset (exec (.feedByte 0xA5#8) (afterBytes 512 [0xA5#8]))).st = .waitLenHigh ∧
    pingDue.Inv ∧ pingDue.st = .waitChecksum ∧
    (landing pingDue (exec (.feedByte 0xA5#8) pingDue)).tx ≠ [] ∧
    (afterBytes 512 [0xA5#8, 0x00#8]).Inv ∧ (afterBytes 512 [0xA5#8, 0x00#8]).st = .waitLenHigh ∧
    (afterBytes 512 [0xA5#8, 0x00#8]).buf.read 1 = some 0x00#8 ∧
    (afterBytes 512 [0xA5#8, 0x00#8]).cfg.capacity < (0x00#8 : Byte).toNat + 256 * 0xA5 ∧
    (landing pingDue (exec (.feedByte 0xA5#8) (afterBytes 512 [0xA5#8, 0x00#8]))).tx ≠ [] := by decide +kernel

/-- FeedByteEmitsAtMostOnce: a rejection, a checksum, and an accepted length at capacity 512. -/
theorem test_witness_emits :
    (afterBytes 512 [0xA5#8, 0x01#8]).Inv ∧ (afterBytes 512 [0xA5#8, 0x01#8]).buf.read 1 = some 0x01#8 ∧
    (afterBytes 512 [0xA5#8, 0x01#8]).st = .waitLenHigh ∧
    512 < (0x01#8 : Byte).toNat + 256 * (0x02#8 : Byte).toNat ∧
    (landing State.reset (exec (.feedByte 0x02#8) (afterBytes 512 [0xA5#8, 0x01#8]))).tx ≠ [] ∧
    pingDue.Inv ∧ pingDue.st ≠ .waitLenHigh ∧ (landing State.reset (exec (.feedByte 0xE1#8) pingDue)).tx ≠ [] ∧
    (landing State.reset (exec (.feedByte 0x01#8) (afterBytes 512 [0xA5#8, 0x01#8]))).st = .waitCommand := by
  decide +kernel

/-- OnlyValidFramesReachTheDispatcher and FrameEndLeavesResetState: PING completes and is dispatched. -/
theorem test_witness_dispatched :
    pingDue.Inv ∧ requested (landing pingDue (exec (.feedByte 0xE0#8) pingDue)) = [(0x20#8, [])] ∧
    (landing pingDue (exec (.feedByte 0xE0#8) pingDue)).tx ≠ pingDue.tx ∧ pingDue.st = .waitChecksum := by decide +kernel

/-- EveryByteIsTaken. -/
theorem test_witness_taken :
    let s : State := { pingDue with pending := [.rx 0xE0#8, .rx 0x00#8] }
    s.Inv ∧ s.cfg.contract = true ∧ s.pending = .rx 0xE0#8 :: [.rx 0x00#8] := by decide +kernel

/-- HangingCollaboratorStopsTheFrame, WaitLenHigh: declared length 513 at capacity 512. -/
theorem test_witness_hanging_reject :
    let s := connected false .stub (afterBytes 512 [0xA5#8, 0x01#8])
    s.Inv ∧ s.st = .waitLenHigh ∧ s.buf.read 1 = some 0x01#8 ∧
    s.cfg.capacity < (0x01#8 : Byte).toNat + 256 * (0x02#8 : Byte).toNat ∧ s.cfg.sink.returns = false := by decide +kernel

/-- HangingCollaboratorStopsTheFrame, WaitChecksum: a SINK that never returns with the oracle, STUB and a fixed answer as long
as MAX_ACK_EXTRA = 0 allows, and a silent DISPATCHER, before a wrong and the right last byte. -/
theorem test_witness_hanging :
    (∀ d ∈ [Dispatcher.oracle, .stub, .fixed 0x00#8 []],
      (connected false d pingDue).Inv ∧ (connected false d pingDue).st = .waitChecksum ∧
      (connected false d pingDue).buffers pingBytes ∧ (connected false d pingDue).cfg.sink.returns = false) ∧
    (connected true .silent pingDue).Inv ∧ (connected true .silent pingDue).st = .waitChecksum ∧
    (connected true .silent pingDue).buffers pingBytes ∧
    verifyFrameCrc (pingBytes ++ [0xE1#8]) = false ∧ verifyFrameCrc (pingBytes ++ [0xE0#8]) = true := by decide +kernel

/-- The same, at the boundary of the answer's length: MAX_ACK_EXTRA = 1, one byte and two. -/
theorem test_witness_answer_too_long :
    let limited : List Byte → State := fun extra =>
      { connected false (.fixed 0x00#8 extra) pingDue with
        cfg := { (connected false (.fixed 0x00#8 extra) pingDue).cfg with maxAckExtra := 1 } }
    (limited [0x07#8]).Inv ∧ (limited [0x07#8]).st = .waitChecksum ∧ (limited [0x07#8]).buffers pingBytes ∧
    [0x07#8].length ≤ (limited [0x07#8]).cfg.maxAckExtra ∧
    (limited [0x07#8, 0x07#8]).Inv ∧ (limited [0x07#8, 0x07#8]).st = .waitChecksum ∧
    (limited [0x07#8, 0x07#8]).buffers pingBytes ∧
    (limited [0x07#8, 0x07#8]).cfg.maxAckExtra < [0x07#8, 0x07#8].length := by decide +kernel

/-- GarbageWithoutMarkerIsAbsorbed: the garbage of V-RX-11. -/
theorem test_witness_garbage : State.reset.st = .waitStart ∧ 0xA5#8 ∉ [0x00#8, 0xFF#8, 0x5A#8] := by decide

/-- OversizedLengthIsRejectedAtThirdByte and LongRequestIsRejectedBySmallReceiver: one over, at capacity 512 and 0. -/
theorem test_witness_oversized :
    (stubbed 512).receiverIdle ∧ (stubbed 512).cfg.sink.returns = true ∧
    (stubbed 512).cfg.capacity < (0x01#8 : Byte).toNat + 256 * (0x02#8 : Byte).toNat ∧
    (stubbed 0).receiverIdle ∧ (stubbed 0).cfg.sink.returns = true ∧ (stubbed 0).cfg.capacity < [0x01#8].length ∧
    [0x01#8].length ≤ 512 := by decide

/-- LongRequestIsRejectedBySmallReceiver: the longest payload the length field can declare. -/
theorem test_witness_foreign_request :
    ∃ payload : List Byte, payload.length = 65535 ∧ (stubbed 512).cfg.capacity < payload.length ∧ payload.length ≤ 65535 :=
  ⟨List.replicate 65535 0#8, List.length_replicate, by rw [List.length_replicate]; decide, by rw [List.length_replicate]⟩

/-- RequestFrameIsReceivedAndAnswered: a payload as long as the capacity, and STUB. -/
theorem test_witness_request :
    (stubbed 1).receiverIdle ∧ (stubbed 1).cfg.wf = true ∧ [0x01#8].length ≤ (stubbed 1).cfg.capacity ∧
    (stubbed 1).cfg.sink.returns = true ∧ (stubbed 1).answer 0x20#8 [0x01#8] = some (0x00#8, []) ∧
    ([] : List Byte).length ≤ (stubbed 1).cfg.maxAckExtra := by decide +kernel

/-- LoopedBackAckWaitsForOneByteMore at capacity 1, and STUB's answer to the frame it completes. -/
theorem test_witness_looped_back :
    (stubbed 1).receiverIdle ∧ (stubbed 1).cfg.wf = true ∧ 1 + ([] : List Byte).length ≤ (stubbed 1).cfg.capacity ∧
    (stubbed 1).cfg.sink.returns = true ∧ (0x01#8 : Byte) ≠ 0#8 ∧ (ackFrame 0x00#8 []).getLast? = some 0x6B#8 ∧
    (stubbed 1).answer 0x00#8 ([] ++ [0x6B#8]) = some (0x01#8, []) := by decide +kernel

/-- FrameRowsComplete and NoFrameWedgesTheReceiver at capacity 1. -/
theorem test_witness_contract :
    (stubbed 1).Inv ∧ (stubbed 1).cfg.contract = true ∧ (List.replicate 5 (0#8 : Byte)).length = 4 + (stubbed 1).cfg.capacity ∧
    (connected true .oracle (stubbed 1)).cfg.contract = true := by
  decide +kernel

/-- ResponsesIgnoreThePast: a fresh receiver and one that has answered a bad frame; PING completes on the first. -/
theorem test_witness_past :
    (stubbed 512).receiverIdle ∧ (afterBytes 512 [0xA5#8, 0x00#8, 0x00#8, 0x20#8, 0xE1#8]).receiverIdle ∧
    (stubbed 512).cfg = (afterBytes 512 [0xA5#8, 0x00#8, 0x00#8, 0x20#8, 0xE1#8]).cfg ∧
    (stubbed 512).draws = (afterBytes 512 [0xA5#8, 0x00#8, 0x00#8, 0x20#8, 0xE1#8]).draws ∧
    (afterBytes 512 [0xA5#8, 0x00#8, 0x00#8, 0x20#8, 0xE0#8]).tx ≠ [] := by decide +kernel

/-- InitConstructsOrRefuses, ThreeWaysLeadToTheResetState: capacities 512 and 513, and a pending power cycle. -/
theorem test_witness_init :
    (512 : Nat) ≤ 512 ∧ (512 : Nat) < 513 ∧
    ({ State.reset with pending := [.powerCycle] } : State).pending = .powerCycle :: [] ∧
    ({ State.reset with pending := [.powerCycle] } : State).cfg.capacity ≤ 512 := by decide

/-- OnlyInitChangesTheConfiguration: RESET is no INIT and completes. -/
theorem test_witness_configuration :
    (∀ capacity sink context, Instr.reset ≠ .init capacity sink context) ∧
    exec .reset State.reset = .next State.reset := ⟨fun _ _ _ => by simp, rfl⟩

/-- PureOperationsIgnoreTheReceiver: two states of different receivers and one MAX_ACK_EXTRA, and its other premises. -/
theorem test_witness_pure :
    State.reset.cfg.maxAckExtra = pingDue.cfg.maxAckExtra ∧ Instr.crc8 [] ∈ [Instr.crc8Update 0#8 0#8, .crc8 []] ∧
    State.reset.Inv ∧ State.reset.st = .waitStart ∧
    (landing State.reset (exec (.feedByte 0xA5#8) State.reset)).st = .waitLenLow ∧
    (landing State.reset (exec (.feedByte 0xA5#8) (landing State.reset (exec (.feedByte 0xA5#8) State.reset)))).st =
      .waitLenHigh := by decide +kernel

/-- ErrorCodesBuildTheirAcknowledgement: MAX_ACK_EXTRA = 1, one extra byte and two. -/
theorem test_witness_error_codes :
    let s : State := { State.reset with cfg := { defaultParams with maxAckExtra := 1 } }
    [0x07#8].length ≤ s.cfg.maxAckExtra ∧ s.cfg.maxAckExtra < [0x07#8, 0x07#8].length ∧
    (Instr.errVm [0x07#8], (0x04#8 : Byte)) ∈ [(Instr.errOk [0x07#8], s.cfg.errOk), (.errVm [0x07#8], s.cfg.errVm)] := by
  decide

/-- ReceiverMovesAlongTheTable: FEED_BYTE completes in a sound state; 512 is a legal capacity. -/
theorem test_witness_table :
    pingDue.Inv ∧ (landing pingDue (exec (.feedByte 0xE0#8) pingDue)).n = 0#16 ∧ pingDue.n = 4#16 ∧ (512 : Nat) ≤ 512 := by
  decide +kernel

/-- NothingElseIsEmitted: RX.CRC is no INIT and no frame row, and completes. -/
theorem test_witness_nothing_else :
    (∀ capacity sink context, Instr.rxCrc 0xE0#8 ≠ .init capacity sink context) ∧
    (∀ c bs, Instr.rxCrc 0xE0#8 ≠ .req c bs ∧ Instr.rxCrc 0xE0#8 ≠ .ack c bs) ∧
    (landing pingDue (exec (.rxCrc 0xE0#8) pingDue)).tx ≠ pingDue.tx :=
  ⟨by simp, by simp, by decide +kernel⟩

/-- DispatchersAnswerWithinTheirRules. -/
theorem test_witness_dispatchers :
    (stubbed 0).cfg.dispatcher = .stub ∧ State.reset.cfg.dispatcher = .oracle := by decide

/-- StepRunsTheDecodedRequest: a pending byte, coded bytes that decode and coded bytes that do not. -/
theorem test_witness_step_request :
    (State.reset.present (.rx 0x00#8)).pending = .rx 0x00#8 :: [] ∧
    State.reset.decodeCoded 0xA5#8 [] = some .rxStart ∧
    State.reset.decodeCoded 0xA5#8 [0x00#8, 0x00#8, 0x20#8, 0xE0#8] = some (.req 0x20#8 []) ∧
    State.reset.decodeCoded 0xA5#8 [0x00#8, 0x00#8, 0x20#8, 0xE1#8] = none ∧ State.reset.pending = [] := by decide +kernel

end Sys2Proof.Tests
end

section
/-! O56: how `step` takes and reads a request (43_dispatch_boundary.md R129; 60_exceptions.md R151). -/

namespace Sys2Proof.Machine

/-- The idle block (60_exceptions.md R151). -/
theorem step_of_pending_nil {s : State} (h : s.pending = []) : step s = .next s := by
  have hfetch : s.fetch = none := by simp [State.fetch, h]
  simp [step, hfetch]

/-- The request leaves the queue, and what it leaves to be taken next stands before the later ones. -/
theorem step_of_pending_cons {s : State} {r : Request} {rest : List Request} (h : s.pending = r :: rest) :
    step s = exec (s.decodeRequest r).1 { s with pending := (s.decodeRequest r).2 ++ rest } := by
  have hfetch := State.fetch_eq_some.mpr ⟨r, rest, h, rfl, rfl⟩
  simp [step, hfetch]

/-- A lone coded byte: the numbered command codes come before the row the receiver's state selects (log 2). -/
theorem State.decodeCoded_singleton (s : State) (b : Byte) :
    s.decodeCoded b [] = (decodeNumberedCode b).orElse (fun _ => s.decodeByte b) := by
  cases h : decodeNumberedCode b with
  | none => simp [State.decodeCoded, h]
  | some i => simp [State.decodeCoded, h]

/-- Several coded bytes are read as the beginning of a frame, whatever the receiver's state (log 2). -/
@[simp] theorem State.decodeCoded_cons (s : State) (b c : Byte) (more : List Byte) :
    s.decodeCoded b (c :: more) = decodeFrameStart (b :: c :: more) := rfl

/-- Settles O56 (holds): one reading rule per kind of request, and `step` on an empty and on a nonempty queue. -/
theorem stepRunsTheDecodedRequest : Obligations.StepRunsTheDecodedRequest :=
  ⟨fun _ _ _ h => step_of_pending_cons h,
    State.decodeRequest_rx,
    State.decodeRequest_op,
    State.decodeRequest_powerCycle,
    State.decodeCoded_singleton,
    State.decodeCoded_cons,
    fun _ _ _ _ h => State.decodeRequest_coded_of_some h,
    fun _ _ _ h => State.decodeRequest_coded_of_none h,
    fun _ h => step_of_pending_nil h⟩

end Sys2Proof.Machine
end

section
/-! What `exec` can do at all: an answer of its own, bytes fed, a selected transition row, RESET or INIT. -/

namespace Sys2Proof.Machine

/-- The byte a transition row takes and the rule it performs when selected (42_frame_receiver.md R97 to R104); `none` for
every other instruction. `exec_cases` ties it to `exec`. -/
def rowRule : Instr → Option (Byte × (State → Result))
  | .rxDiscard b => some (b, discardByte)
  | .rxStart => some (startMarker, openFrame)
  | .rxLenLo b => some (b, takeLenLow b)
  | .rxLenHi b => some (b, fun t => andThen (takeLength b t) acceptLength)
  | .rxLenHiFull b => some (b, fun t => andThen (takeLength b t) rejectLength)
  | .rxCmd b => some (b, fun t => andThen (storeCommand b t) (fun u => .next (u.goto .waitPayload)))
  | .rxCmdEmpty b => some (b, fun t => andThen (storeCommand b t) (fun u => .next (u.goto .waitChecksum)))
  | .rxPayload b => some (b, storePayload b)
  | .rxPayloadLast b => some (b, fun t => andThen (storePayload b t) (fun u => .next (u.goto .waitChecksum)))
  | .rxCrc b => some (b, takeChecksum b)
  | _ => none

theorem andThen_next_right (r : Result) : andThen r .next = r := by
  cases r <;> rfl

theorem feedAll_singleton (b : Byte) (s : State) : feedAll [b] s = feed b s :=
  andThen_next_right (feed b s)

/-- Everything an instruction can do. -/
theorem exec_cases (i : Instr) (s : State) :
    (∃ r, exec i s = .next (s.returning r)) ∨
    (∃ bs, exec i s = feedAll bs (s.returning .nothing)) ∨
    (∃ b rule, rowRule i = some (b, rule) ∧ exec i s = whenSelected i b rule s) ∨
    exec i s = execReset s ∨
    (∃ capacity sink context, i = .init capacity sink context) := by
  cases i with
  | crc8Update | crc8 | encodeFrame | encodeAck | verifyFrameCrc | decodeFrame
  | errOk | errGeneral | errInvalidFrame | errBufferFull | errVm => exact .inl ⟨_, rfl⟩
  | req | ack => exact .inr (.inl ⟨_, rfl⟩)
  | feedByte | cmdExec | cmdPing | cmdQueryStack | cmdQueryMemory | cmdQueryWord | cmdReset =>
    exact .inr (.inl ⟨[_], (feedAll_singleton _ _).symm⟩)
  | rxDiscard | rxStart | rxLenLo | rxLenHi | rxLenHiFull | rxCmd | rxCmdEmpty | rxPayload | rxPayloadLast | rxCrc =>
    exact .inr (.inr (.inl ⟨_, _, rfl, rfl⟩))
  | reset => exact .inr (.inr (.inr (.inl rfl)))
  | init => exact .inr (.inr (.inr (.inr ⟨_, _, _, rfl⟩)))

end Sys2Proof.Machine
end

section
/-! O50: only INIT assigns the configuration (10_state.md R17, 43_dispatch_boundary.md R130). -/

namespace Sys2Proof.Machine

/-- `f` leaves the configuration as it is whenever it completes. -/
def keepsCfg (f : State → Result) : Prop := ∀ s t, f s = .next t → t.cfg = s.cfg

theorem keepsCfg_next {g : State → State} (h : ∀ s, (g s).cfg = s.cfg) : keepsCfg (fun s => .next (g s)) := by
  intro s t ht
  cases ht
  exact h s

theorem keepsCfg_andThen {f g : State → Result} (hf : keepsCfg f) (hg : keepsCfg g) :
    keepsCfg (fun s => andThen (f s) g) := by
  intro s t ht
  obtain ⟨u, hu, ht⟩ := andThen_eq_next.mp ht
  exact (hg u t ht).trans (hf s u hu)

theorem keepsCfg_append (b : Byte) : keepsCfg (State.append b) := by
  intro s t ht
  obtain ⟨-, rfl⟩ := State.append_eq_next.mp ht
  rfl

theorem keepsCfg_composeLength : keepsCfg State.composeLength := by
  intro s t ht
  obtain ⟨v, -, rfl⟩ := State.composeLength_eq_next.mp ht
  rfl

theorem keepsCfg_respond (code : Byte) (extra : List Byte) : keepsCfg (State.respond code extra) := by
  intro s t ht
  obtain ⟨-, -, rfl⟩ := State.respond_eq_next.mp ht
  rfl

theorem keepsCfg_dispatch (cmd : Byte) (payload : List Byte) : keepsCfg (State.dispatch cmd payload) := by
  intro s t ht
  obtain ⟨code, extra, -, -, -, rfl⟩ := State.dispatch_eq_next.mp ht
  rfl

theorem keepsCfg_completeFrame : keepsCfg completeFrame := by
  intro s t ht
  unfold completeFrame at ht
  split at ht
  · cases ht
  · split at ht
    · split at ht
      · cases ht
      · exact keepsCfg_dispatch _ _ s t ht
    · exact keepsCfg_respond _ _ s t ht

theorem keepsCfg_openFrame : keepsCfg openFrame := fun s t ht =>
  keepsCfg_andThen (keepsCfg_append startMarker) (keepsCfg_next (g := State.goto .waitLenLow) fun _ => rfl) s.clear t ht

theorem keepsCfg_takeLenLow (b : Byte) : keepsCfg (takeLenLow b) :=
  keepsCfg_andThen (keepsCfg_append b) (keepsCfg_next fun _ => rfl)

theorem keepsCfg_takeLength (b : Byte) : keepsCfg (takeLength b) :=
  keepsCfg_andThen (keepsCfg_append b) keepsCfg_composeLength

theorem keepsCfg_acceptLength : keepsCfg acceptLength := keepsCfg_next fun _ => rfl

theorem keepsCfg_rejectLength : keepsCfg rejectLength := by
  intro s t ht
  obtain ⟨-, -, rfl⟩ := State.raiseResponse_eq_next.mp ht
  rfl

theorem keepsCfg_takeLenHigh (b : Byte) : keepsCfg (takeLenHigh b) :=
  keepsCfg_andThen (keepsCfg_takeLength b) fun s t ht => by
    split at ht
    · exact keepsCfg_rejectLength s t ht
    · exact keepsCfg_acceptLength s t ht

theorem keepsCfg_storeCommand (b : Byte) : keepsCfg (storeCommand b) :=
  keepsCfg_andThen (keepsCfg_append b) (keepsCfg_next fun _ => rfl)

theorem keepsCfg_storePayload (b : Byte) : keepsCfg (storePayload b) :=
  keepsCfg_andThen (keepsCfg_append b) (keepsCfg_next fun _ => rfl)

theorem keepsCfg_takeCommandByte (b : Byte) : keepsCfg (takeCommandByte b) :=
  keepsCfg_andThen (keepsCfg_storeCommand b) (keepsCfg_next fun _ => rfl)

theorem keepsCfg_takePayloadByte (b : Byte) : keepsCfg (takePayloadByte b) :=
  keepsCfg_andThen (keepsCfg_storePayload b) (keepsCfg_next fun _ => by split <;> rfl)

theorem keepsCfg_takeChecksum (b : Byte) : keepsCfg (takeChecksum b) :=
  keepsCfg_andThen (keepsCfg_andThen (keepsCfg_append b) keepsCfg_completeFrame) (keepsCfg_next fun _ => rfl)

theorem keepsCfg_feed (b : Byte) : keepsCfg (feed b) := by
  intro s t ht
  unfold feed at ht
  split at ht
  · split at ht
    · exact keepsCfg_openFrame s t ht
    · cases ht; rfl
  · exact keepsCfg_takeLenLow b s t ht
  · exact keepsCfg_takeLenHigh b s t ht
  · exact keepsCfg_takeCommandByte b s t ht
  · exact keepsCfg_takePayloadByte b s t ht
  · exact keepsCfg_takeChecksum b s t ht

theorem keepsCfg_feedAll (bs : List Byte) : keepsCfg (feedAll bs) := by
  induction bs with
  | nil => exact keepsCfg_next fun _ => rfl
  | cons b bs ih => exact keepsCfg_andThen (keepsCfg_feed b) ih

theorem keepsCfg_of_rowRule {i : Instr} {b : Byte} {rule : State → Result} (h : rowRule i = some (b, rule)) :
    keepsCfg rule := by
  cases i <;> cases h
  case rxDiscard => exact keepsCfg_next fun _ => rfl
  case rxStart => exact keepsCfg_openFrame
  case rxLenLo => exact keepsCfg_takeLenLow b
  case rxLenHi => exact keepsCfg_andThen (keepsCfg_takeLength b) keepsCfg_acceptLength
  case rxLenHiFull => exact keepsCfg_andThen (keepsCfg_takeLength b) keepsCfg_rejectLength
  case rxCmd | rxCmdEmpty => exact keepsCfg_andThen (keepsCfg_storeCommand b) (keepsCfg_next fun _ => rfl)
  case rxPayload => exact keepsCfg_storePayload b
  case rxPayloadLast => exact keepsCfg_andThen (keepsCfg_storePayload b) (keepsCfg_next fun _ => rfl)
  case rxCrc => exact keepsCfg_takeChecksum b

theorem keepsCfg_whenSelected (i : Instr) (b : Byte) {rule : State → Result} (h : keepsCfg rule) :
    keepsCfg (whenSelected i b rule) := by
  intro s t ht
  unfold whenSelected at ht
  split at ht
  · exact h (s.returning .nothing) t ht
  · cases ht

/-- Settles O50 (holds): INIT apart, `exec` is built of operations that keep the configuration. -/
theorem onlyInitChangesTheConfiguration : Obligations.OnlyInitChangesTheConfiguration := by
  intro i s t hinit ht
  rcases exec_cases i s with ⟨r, h⟩ | ⟨bs, h⟩ | ⟨b, rule, hrow, h⟩ | h | ⟨capacity, sink, context, h⟩
  · cases h.symm.trans ht; rfl
  · exact keepsCfg_feedAll bs (s.returning .nothing) t (h.symm.trans ht)
  · exact keepsCfg_whenSelected i b (keepsCfg_of_rowRule hrow) s t (h.symm.trans ht)
  · cases h.symm.trans ht; rfl
  · exact absurd h (hinit capacity sink context)

end Sys2Proof.Machine
end

section
/-! The buffer with exactly its first positions defined (10_state.md R13, R24), and the state after an append that has room. -/

namespace Sys2Proof.Machine

/-- The defined positions are `0 .. n - 1`. -/
abbrev Memory.filledTo (m : Memory) (n : Nat) : Prop := m.map Prod.fst = List.range n

theorem Memory.wf_of_filledTo {m : Memory} {n : Nat} (h : m.filledTo n) : m.wf := by
  have hlt : (m.map Prod.fst).Pairwise (· < ·) := h ▸ List.pairwise_lt_range
  exact List.pairwise_map.mp hlt

theorem Memory.filledTo_write {m : Memory} {n : Nat} (b : Byte) (h : m.filledTo n) : (m.write n b).filledTo (n + 1) := by
  have hlt : ∀ c ∈ m, c.1 < n := fun c hc => List.mem_range.mp (h ▸ List.mem_map_of_mem hc)
  rw [Memory.filledTo, Memory.write_at_end m n b hlt, List.map_append, h, List.range_succ]
  rfl

/-- A listed position reads as a byte. -/
theorem Memory.exists_read_of_mem {m : Memory} {a : Nat} (h : a ∈ m.map Prod.fst) : ∃ v, m.read a = some v := by
  induction m with
  | nil => simp at h
  | cons c m ih =>
    obtain ⟨k, v⟩ := c
    rw [Memory.read_cons]
    by_cases hk : k = a
    · exact ⟨v, if_pos hk⟩
    · rw [if_neg hk]
      exact ih ((List.mem_cons.mp h).resolve_left (Ne.symm hk))

theorem Memory.exists_read_of_filledTo {m : Memory} {n a : Nat} (h : m.filledTo n) (ha : a < n) :
    ∃ v, m.read a = some v :=
  Memory.exists_read_of_mem (h ▸ List.mem_range.mpr ha)

theorem Memory.exists_readRange_of_filledTo {m : Memory} {n : Nat} (h : m.filledTo n) (k a : Nat) (hk : a + k ≤ n) :
    ∃ bs, m.readRange a k = some bs := by
  induction k generalizing a with
  | zero => exact ⟨[], rfl⟩
  | succ k ih =>
    obtain ⟨v, hv⟩ := Memory.exists_read_of_filledTo h (a := a) (by omega)
    obtain ⟨bs, hbs⟩ := ih (a + 1) (by omega)
    exact ⟨v :: bs, by simp only [Memory.readRange_succ, hv, hbs]⟩

/-- A write past the length octets leaves the declared length. -/
theorem Memory.declaredLength_write (m : Memory) {a : Nat} (b : Byte) (ha : 3 ≤ a) :
    (m.write a b).declaredLength = m.declaredLength := by
  simp only [Memory.declaredLength, Memory.read_write_other m a 1 b (by omega),
    Memory.read_write_other m a 2 b (by omega)]

/-- The state after `append(b)` (20_memory.md R32) when the buffer has room: see `State.append_eq_appended`. -/
def State.appended (b : Byte) (s : State) : State := { s with buf := s.buf.write s.n.toNat b, n := s.n + 1#16 }

theorem State.append_eq_appended {s : State} (b : Byte) (h : s.n.toNat < frameBufSize s.cfg) :
    s.append b = .next (s.appended b) :=
  State.append_of_room h

@[simp] theorem State.appended_st (b : Byte) (s : State) : (s.appended b).st = s.st := rfl
@[simp] theorem State.appended_buf (b : Byte) (s : State) : (s.appended b).buf = s.buf.write s.n.toNat b := rfl
@[simp] theorem State.appended_n (b : Byte) (s : State) : (s.appended b).n = s.n + 1#16 := rfl
@[simp] theorem State.appended_len (b : Byte) (s : State) : (s.appended b).len = s.len := rfl
@[simp] theorem State.appended_cmd (b : Byte) (s : State) : (s.appended b).cmd = s.cmd := rfl
@[simp] theorem State.appended_cur (b : Byte) (s : State) : (s.appended b).cur = s.cur := rfl
@[simp] theorem State.appended_cfg (b : Byte) (s : State) : (s.appended b).cfg = s.cfg := rfl

/-- A legal capacity keeps every register below its wrap (00_scope.md R7). -/
theorem Params.capacity_le_of_wf {p : Params} (h : p.wf = true) : p.capacity ≤ 512 := by
  simp only [Params.wf, Bool.and_eq_true, decide_eq_true_eq] at h
  obtain ⟨⟨hcap, -⟩, -⟩ := h
  exact hcap

/-- Under a legal capacity an append with room does not wrap `n`. -/
theorem State.appended_n_toNat {s : State} (b : Byte) (hcfg : s.cfg.wf = true) (hroom : s.n.toNat < frameBufSize s.cfg) :
    (s.appended b).n.toNat = s.n.toNat + 1 := by
  have hcap := Params.capacity_le_of_wf hcfg
  simp only [frameBufSize, frameOverhead] at hroom
  rw [State.appended_n, BitVec.toNat_add_of_lt (by simp; omega)]
  rfl

end Sys2Proof.Machine
end

section
/-! What FEED_BYTE answers in each of the six receiver states (42_frame_receiver.md R97 to R104). -/

namespace Sys2Proof.Machine

/-- R97. -/
theorem feed_of_waitStart_of_ne {s : State} {b : Byte} (hst : s.st = .waitStart) (hb : b ≠ startMarker) :
    feed b s = .next s := by
  simp [feed, hst, isStart, hb, discardByte]

/-- R98. -/
theorem feed_startMarker_of_waitStart {s : State} (hst : s.st = .waitStart) :
    feed startMarker s = .next ((s.clear.appended startMarker).goto .waitLenLow) := by
  have hroom : s.clear.n.toNat < frameBufSize s.clear.cfg := by simp [frameBufSize, frameOverhead]
  simp [feed, hst, isStart, openFrame, State.append_eq_appended startMarker hroom]

/-- R99. -/
theorem feed_of_waitLenLow {s : State} {b : Byte} (hst : s.st = .waitLenLow) (hroom : s.n.toNat < frameBufSize s.cfg) :
    feed b s = .next ((s.appended b).goto .waitLenHigh) := by
  simp [feed, hst, takeLenLow, State.append_eq_appended b hroom]

/-- The first two lines of R100: the length is the one the two octets declare. -/
theorem takeLength_eq {s : State} {lo b : Byte} (hn : s.n = 2#16) (hlo : s.buf.read 1 = some lo) :
    takeLength b s = .next { s.appended b with len := fromLe16 lo b } := by
  have hroom : s.n.toNat < frameBufSize s.cfg := by simp [hn, frameBufSize, frameOverhead]
  have h1 : (s.appended b).buf.read 1 = some lo := by simp [hn, Memory.read_write, hlo]
  have h2 : (s.appended b).buf.read 2 = some b := by simp [hn]
  rw [takeLength, State.append_eq_appended b hroom, andThen_next]
  exact State.composeLength_eq_next.mpr ⟨_, Memory.declaredLength_of h1 h2, rfl⟩

/-- R100, the length fits. -/
theorem feed_of_waitLenHigh_of_le {s : State} {lo b : Byte} (hst : s.st = .waitLenHigh) (hn : s.n = 2#16)
    (hlo : s.buf.read 1 = some lo) (hfit : lo.toNat + 256 * b.toNat ≤ s.cfg.capacity) :
    feed b s = .next ({ s.appended b with len := fromLe16 lo b }.goto .waitCommand) := by
  simp [feed, hst, takeLenHigh, takeLength_eq hn hlo, fromLe16_toNat, Nat.not_lt.mpr hfit, acceptLength]

/-- R100, the length does not fit. -/
theorem feed_of_waitLenHigh_of_lt {s : State} {lo b : Byte} (hst : s.st = .waitLenHigh) (hn : s.n = 2#16)
    (hlo : s.buf.read 1 = some lo) (hfull : s.cfg.capacity < lo.toNat + 256 * b.toNat) :
    feed b s = rejectLength { s.appended b with len := fromLe16 lo b } := by
  simp [feed, hst, takeLenHigh, takeLength_eq hn hlo, fromLe16_toNat, hfull]

theorem feed_eq_takeCommandByte {s : State} (b : Byte) (hst : s.st = .waitCommand) : feed b s = takeCommandByte b s := by
  simp [feed, hst]

/-- R102. -/
theorem feed_of_waitCommand {s : State} {b : Byte} (hst : s.st = .waitCommand) (hroom : s.n.toNat < frameBufSize s.cfg) :
    feed b s =
      .next (((s.appended b).takeCommand b).goto (if payloadEmpty s.len then .waitChecksum else .waitPayload)) := by
  rw [feed_eq_takeCommandByte b hst, takeCommandByte, storeCommand, State.append_eq_appended b hroom]
  rfl

theorem feed_eq_takePayloadByte {s : State} (b : Byte) (hst : s.st = .waitPayload) : feed b s = takePayloadByte b s := by
  simp [feed, hst]

/-- R103. -/
theorem feed_of_waitPayload {s : State} {b : Byte} (hst : s.st = .waitPayload) (hroom : s.n.toNat < frameBufSize s.cfg) :
    feed b s =
      .next (if s.cur + 1#16 = s.len then (s.appended b).advance.goto .waitChecksum else (s.appended b).advance) := by
  rw [feed_eq_takePayloadByte b hst, takePayloadByte, storePayload, State.append_eq_appended b hroom]
  rfl

/-- R104. -/
theorem feed_of_waitChecksum {s : State} {b : Byte} (hst : s.st = .waitChecksum)
    (hroom : s.n.toNat < frameBufSize s.cfg) :
    feed b s = andThen (completeFrame (s.appended b)) (fun t => .next t.reinit) := by
  simp [feed, hst, takeChecksum, State.append_eq_appended b hroom]

/-- R108 when every buffered byte is defined: a frame is dispatched or answered, and no byte is missing. -/
theorem completeFrame_of_filledTo {s : State} (hbuf : s.buf.filledTo s.n.toNat) (hn : 4 + s.len.toNat ≤ s.n.toNat) :
    ∃ payload, completeFrame s = s.dispatch s.cmd payload ∨ completeFrame s = s.respond s.cfg.errInvalidFrame [] := by
  obtain ⟨frame, hframe⟩ := Memory.exists_readRange_of_filledTo hbuf s.n.toNat 0 (by omega)
  obtain ⟨payload, hpayload⟩ := Memory.exists_readRange_of_filledTo hbuf s.len.toNat 4 hn
  refine ⟨payload, ?_⟩
  simp only [completeFrame, hframe, hpayload]
  split
  · exact .inl rfl
  · exact .inr rfl

end Sys2Proof.Machine
end

section
/-! The invariant of 10_state.md R24, one state at a time, and FEED_BYTE under it. -/

namespace Sys2Proof.Machine

/-- The line of R24's table for the state `x`; `State.inv_iff` ties it to the invariant. -/
abbrev State.tableLine (s : State) : RxState → Prop
  | .waitStart => s.receiverIdle
  | .waitLenLow => s.n = 1#16 ∧ s.markerHeld ∧ s.len = 0#16 ∧ s.commandClear
  | .waitLenHigh => s.n = 2#16 ∧ s.markerHeld ∧ s.len = 0#16 ∧ s.commandClear
  | .waitCommand => s.n = 3#16 ∧ s.markerHeld ∧ s.lengthHeld ∧ s.commandClear
  | .waitPayload => s.n.toNat = 4 + s.cur.toNat ∧ s.markerHeld ∧ s.lengthHeld ∧ s.buf.read 3 = some s.cmd ∧
      s.cur.toNat < s.len.toNat
  | .waitChecksum => s.n.toNat = 4 + s.len.toNat ∧ s.markerHeld ∧ s.lengthHeld ∧ s.buf.read 3 = some s.cmd ∧
      s.cur = s.len

/-- The invariant is legal parameters, the positions below `n`, and the one line of the table for `st`. -/
theorem State.inv_iff {s : State} {x : RxState} (hst : s.st = x) :
    s.Inv ↔ s.cfg.wf = true ∧ s.buf.filledTo s.n.toNat ∧ s.tableLine x := by
  constructor
  · rintro ⟨hcfg, -, hbuf, h0, h1, h2, h3, h4, h5⟩
    refine ⟨hcfg, hbuf, ?_⟩
    cases x with
    | waitStart => exact h0 hst
    | waitLenLow => exact h1 hst
    | waitLenHigh => exact h2 hst
    | waitCommand => exact h3 hst
    | waitPayload => exact h4 hst
    | waitChecksum => exact h5 hst
  · rintro ⟨hcfg, hbuf, hline⟩
    subst hst
    refine ⟨hcfg, Memory.wf_of_filledTo hbuf, hbuf, ?_, ?_, ?_, ?_, ?_, ?_⟩ <;> exact fun h => by rwa [h] at hline

/-- Under the invariant every state has room for the byte that arrives next. -/
theorem State.room_of_inv {s : State} (h : s.Inv) : s.n.toNat < frameBufSize s.cfg := by
  obtain ⟨-, -, hline⟩ := (State.inv_iff rfl).mp h
  simp only [frameBufSize, frameOverhead]
  cases hst : s.st <;> rw [hst] at hline
  case waitStart => obtain ⟨-, -, hn, -⟩ := hline; simp [hn]
  case waitLenLow | waitLenHigh | waitCommand => obtain ⟨hn, -⟩ := hline; simp only [hn, BitVec.toNat_ofNat]; omega
  case waitPayload => obtain ⟨hn, -, ⟨-, hlen⟩, -, hcur⟩ := hline; omega
  case waitChecksum => obtain ⟨hn, -, ⟨-, hlen⟩, -⟩ := hline; omega

/-- A re-initialised receiver under legal parameters. -/
theorem State.inv_of_idle {s : State} (hcfg : s.cfg.wf = true) (h : s.receiverIdle) : s.Inv := by
  obtain ⟨hst, hbuf, hn, -⟩ := id h
  exact (State.inv_iff hst).mpr ⟨hcfg, by rw [hbuf, hn]; rfl, h⟩

theorem State.inv_reinit {s : State} (hcfg : s.cfg.wf = true) : s.reinit.Inv :=
  State.inv_of_idle hcfg ⟨rfl, rfl, rfl, rfl, rfl, rfl⟩

/-- An append with room defines position `n` and no other. -/
theorem State.filledTo_appended {s : State} (b : Byte) (hcfg : s.cfg.wf = true) (hroom : s.n.toNat < frameBufSize s.cfg)
    (h : s.buf.filledTo s.n.toNat) : (s.appended b).buf.filledTo (s.appended b).n.toNat := by
  rw [State.appended_n_toNat b hcfg hroom]
  exact Memory.filledTo_write b h

theorem State.markerHeld_appended {s : State} (b : Byte) (h : s.markerHeld) (hn : 1 ≤ s.n.toNat) :
    (s.appended b).markerHeld :=
  (Memory.read_write_other s.buf s.n.toNat 0 b (by omega)).trans h

theorem State.lengthHeld_appended {s : State} (b : Byte) (h : s.lengthHeld) (hn : 3 ≤ s.n.toNat) :
    (s.appended b).lengthHeld :=
  h.imp_left (Memory.declaredLength_write s.buf b hn).trans

/-! ### Sound outcomes -/

/-- The outcome is none of the two faults of the buffer (log 15). -/
structure BufferSafe (r : Result) : Prop where
  no_undefinedByte : r ≠ .fault .undefinedByte
  no_bufferOverflow : r ≠ .fault .bufferOverflow

/-- The outcome is a state of the invariant, or a stop for a reason outside the buffer. -/
structure Sound (r : Result) : Prop where
  inv : ∀ t, r = .next t → t.Inv
  bufferSafe : BufferSafe r

theorem Sound.next {s : State} (h : s.Inv) : Sound (.next s) := by
  refine ⟨fun t ht => ?_, nofun, nofun⟩
  cases ht
  exact h

theorem Sound.refused (e : Refusal) : Sound (.refused e) := ⟨nofun, nofun, nofun⟩

theorem Sound.fault {e : Fault} (h : BufferSafe (.fault e)) : Sound (.fault e) := ⟨nofun, h⟩

theorem Sound.andThen {r : Result} {f : State → Result} (hr : Sound r) (hf : ∀ s, s.Inv → Sound (f s)) :
    Sound (andThen r f) := by
  cases r with
  | next s => exact hf s (hr.inv s rfl)
  | fault e => exact Sound.fault hr.bufferSafe
  | refused e => exact Sound.refused e

/-- What re-initialises at its end is sound once the part before has kept the configuration and met no buffer fault. -/
theorem Sound.andThen_reinit {f : State → Result} (hf : keepsCfg f) {s : State} (hcfg : s.cfg.wf = true)
    (hsafe : BufferSafe (f s)) : Sound (Machine.andThen (f s) fun t => .next t.reinit) := by
  cases hr : f s with
  | next t => exact Sound.next (State.inv_reinit ((hf s t hr).symm ▸ hcfg))
  | fault e => exact Sound.fault (hr ▸ hsafe)
  | refused e => exact Sound.refused e

/-- An emission can hang in the SINK or be refused; it reads no buffer byte. -/
theorem respond_bufferSafe (code : Byte) (extra : List Byte) (s : State) : BufferSafe (s.respond code extra) := by
  unfold State.respond State.emit
  split
  · split <;> exact ⟨nofun, nofun⟩
  · exact ⟨nofun, nofun⟩

theorem dispatch_bufferSafe (cmd : Byte) (payload : List Byte) (s : State) : BufferSafe (s.dispatch cmd payload) := by
  unfold State.dispatch
  split
  · exact respond_bufferSafe _ _ _
  · exact ⟨nofun, nofun⟩

theorem completeFrame_bufferSafe {s : State} (hbuf : s.buf.filledTo s.n.toNat) (hn : 4 + s.len.toNat ≤ s.n.toNat) :
    BufferSafe (completeFrame s) := by
  obtain ⟨payload, h | h⟩ := completeFrame_of_filledTo hbuf hn
  · exact h ▸ dispatch_bufferSafe _ _ _
  · exact h ▸ respond_bufferSafe _ _ _

theorem payloadEmpty_iff {len : Half} : payloadEmpty len = true ↔ len = 0#16 := beq_iff_eq

/-- A cursor below the length does not wrap. -/
theorem State.cur_succ_toNat {s : State} (h : s.cur.toNat < s.len.toNat) : (s.cur + 1#16).toNat = s.cur.toNat + 1 := by
  have hlen := s.len.isLt
  simp only [BitVec.toNat_add, BitVec.toNat_ofNat]
  omega

/-! ### FEED_BYTE, state by state -/

theorem feed_sound_of_waitStart {s : State} (b : Byte) (hst : s.st = .waitStart) (h : s.Inv) : Sound (feed b s) := by
  by_cases hb : b = startMarker
  · subst hb
    rw [feed_startMarker_of_waitStart hst]
    obtain ⟨hcfg, -, -, -, -, hlen, hcmd, hcur⟩ := (State.inv_iff hst).mp h
    exact Sound.next ((State.inv_iff rfl).mpr ⟨hcfg, rfl, rfl, rfl, hlen, hcmd, hcur⟩)
  · rw [feed_of_waitStart_of_ne hst hb]
    exact Sound.next h

theorem feed_sound_of_waitLenLow {s : State} (b : Byte) (hst : s.st = .waitLenLow) (h : s.Inv) : Sound (feed b s) := by
  have hroom := State.room_of_inv h
  obtain ⟨hcfg, hbuf, hn, hmark, hlen, hclear⟩ := (State.inv_iff hst).mp h
  rw [feed_of_waitLenLow hst hroom]
  exact Sound.next ((State.inv_iff rfl).mpr ⟨hcfg, State.filledTo_appended b hcfg hroom hbuf, by simp [hn],
    State.markerHeld_appended b hmark (by simp [hn]), hlen, hclear⟩)

theorem feed_sound_of_waitLenHigh {s : State} (b : Byte) (hst : s.st = .waitLenHigh) (h : s.Inv) : Sound (feed b s) := by
  have hroom := State.room_of_inv h
  obtain ⟨hcfg, hbuf, hn, hmark, hlen, hclear⟩ := (State.inv_iff hst).mp h
  obtain ⟨lo, hlo⟩ := Memory.exists_read_of_filledTo hbuf (a := 1) (by simp [hn])
  by_cases hfit : lo.toNat + 256 * b.toNat ≤ s.cfg.capacity
  · have h1 : (s.appended b).buf.read 1 = some lo := by simp [hn, Memory.read_write, hlo]
    have h2 : (s.appended b).buf.read 2 = some b := by simp [hn]
    rw [feed_of_waitLenHigh_of_le hst hn hlo hfit]
    exact Sound.next ((State.inv_iff rfl).mpr ⟨hcfg, State.filledTo_appended b hcfg hroom hbuf, by simp [hn],
      State.markerHeld_appended b hmark (by simp [hn]),
      ⟨Memory.declaredLength_of h1 h2, (fromLe16_toNat lo b).trans_le hfit⟩, hclear⟩)
  · rw [feed_of_waitLenHigh_of_lt hst hn hlo (by omega)]
    exact Sound.andThen_reinit (keepsCfg_respond _ _) hcfg (respond_bufferSafe _ _ _)

theorem feed_sound_of_waitCommand {s : State} (b : Byte) (hst : s.st = .waitCommand) (h : s.Inv) : Sound (feed b s) := by
  have hroom := State.room_of_inv h
  obtain ⟨hcfg, hbuf, hn, hmark, hlen, -⟩ := (State.inv_iff hst).mp h
  have hbuf' := State.filledTo_appended b hcfg hroom hbuf
  have hmark' := State.markerHeld_appended b hmark (by simp [hn])
  have hlen' := State.lengthHeld_appended b hlen (by simp [hn])
  have hcmd : (s.appended b).buf.read 3 = some b := by simp [hn]
  rw [feed_of_waitCommand hst hroom]
  by_cases hzero : s.len = 0#16
  · rw [if_pos (payloadEmpty_iff.mpr hzero)]
    exact Sound.next ((State.inv_iff rfl).mpr ⟨hcfg, hbuf', by simp [hn, hzero], hmark', hlen', hcmd, hzero.symm⟩)
  · rw [if_neg (mt payloadEmpty_iff.mp hzero)]
    have hpos : 0 < s.len.toNat := Nat.pos_of_ne_zero fun h0 => hzero (BitVec.eq_of_toNat_eq h0)
    exact Sound.next ((State.inv_iff rfl).mpr ⟨hcfg, hbuf', by simp [hn], hmark', hlen', hcmd, hpos⟩)

theorem feed_sound_of_waitPayload {s : State} (b : Byte) (hst : s.st = .waitPayload) (h : s.Inv) : Sound (feed b s) := by
  have hroom := State.room_of_inv h
  obtain ⟨hcfg, hbuf, hn, hmark, hlen, hcmd, hcur⟩ := (State.inv_iff hst).mp h
  have hn' := State.appended_n_toNat b hcfg hroom
  have hbuf' := State.filledTo_appended b hcfg hroom hbuf
  have hmark' := State.markerHeld_appended b hmark (by omega)
  have hlen' := State.lengthHeld_appended b hlen (by omega)
  have hcmd' : (s.appended b).buf.read 3 = some s.cmd :=
    (Memory.read_write_other s.buf s.n.toNat 3 b (by omega)).trans hcmd
  have hcur' : (s.cur + 1#16).toNat = s.cur.toNat + 1 := State.cur_succ_toNat hcur
  rw [feed_of_waitPayload hst hroom]
  by_cases hlast : s.cur + 1#16 = s.len
  · have hnlast : (s.appended b).n.toNat = 4 + s.len.toNat := by rw [← hlast]; omega
    rw [if_pos hlast]
    exact Sound.next ((State.inv_iff rfl).mpr ⟨hcfg, hbuf', hnlast, hmark', hlen', hcmd', hlast⟩)
  · have hne : (s.cur + 1#16).toNat ≠ s.len.toNat := fun he => hlast (BitVec.eq_of_toNat_eq he)
    have hnmore : (s.appended b).n.toNat = 4 + (s.cur + 1#16).toNat := by omega
    have hlt : (s.cur + 1#16).toNat < s.len.toNat := by omega
    rw [if_neg hlast]
    exact Sound.next ((State.inv_iff (s := (s.appended b).advance) hst).mpr
      ⟨hcfg, hbuf', hnmore, hmark', hlen', hcmd', hlt⟩)

theorem feed_sound_of_waitChecksum {s : State} (b : Byte) (hst : s.st = .waitChecksum) (h : s.Inv) :
    Sound (feed b s) := by
  have hroom := State.room_of_inv h
  obtain ⟨hcfg, hbuf, hn, -⟩ := (State.inv_iff hst).mp h
  have hn' := State.appended_n_toNat b hcfg hroom
  rw [feed_of_waitChecksum hst hroom]
  exact Sound.andThen_reinit keepsCfg_completeFrame hcfg
    (completeFrame_bufferSafe (State.filledTo_appended b hcfg hroom hbuf) (by simp only [State.appended_len]; omega))

/-- Under the invariant a FEED_BYTE that completes keeps it, and no buffer fault stops it. -/
theorem feed_sound {s : State} (b : Byte) (h : s.Inv) : Sound (feed b s) := by
  cases hst : s.st with
  | waitStart => exact feed_sound_of_waitStart b hst h
  | waitLenLow => exact feed_sound_of_waitLenLow b hst h
  | waitLenHigh => exact feed_sound_of_waitLenHigh b hst h
  | waitCommand => exact feed_sound_of_waitCommand b hst h
  | waitPayload => exact feed_sound_of_waitPayload b hst h
  | waitChecksum => exact feed_sound_of_waitChecksum b hst h

theorem feedAll_sound (bs : List Byte) {s : State} (h : s.Inv) : Sound (feedAll bs s) := by
  induction bs generalizing s with
  | nil => exact Sound.next h
  | cons b bs ih => exact (feed_sound b h).andThen fun t ht => ih ht

end Sys2Proof.Machine
end

section
/-! O35, O37: a step from a sound state ends in a sound state or stops for a reason outside the buffer (10_state.md R24). -/

namespace Sys2Proof.Machine

/-- Doing `f` and doing `g` after `r` is the same if they agree on what `r` completes in. -/
theorem andThen_congr {r : Result} {f g : State → Result} (h : ∀ s, r = .next s → f s = g s) :
    andThen r f = andThen r g := by
  cases r with
  | next s => exact h s rfl
  | fault e => rfl
  | refused e => rfl

theorem append_andThen_eq_next {g : State → State} {b : Byte} {s t : State} :
    andThen (s.append b) (fun u => .next (g u)) = .next t ↔ s.n.toNat < frameBufSize s.cfg ∧ t = g (s.appended b) := by
  rw [andThen_eq_next]
  constructor
  · rintro ⟨u, hu, ht⟩
    obtain ⟨hroom, rfl⟩ := State.append_eq_next.mp hu
    cases ht
    exact ⟨hroom, rfl⟩
  · rintro ⟨hroom, rfl⟩
    exact ⟨_, State.append_eq_appended b hroom, rfl⟩

theorem storeCommand_eq_next {b : Byte} {s t : State} :
    storeCommand b s = .next t ↔ s.n.toNat < frameBufSize s.cfg ∧ t = (s.appended b).takeCommand b :=
  append_andThen_eq_next

theorem storePayload_eq_next {b : Byte} {s t : State} :
    storePayload b s = .next t ↔ s.n.toNat < frameBufSize s.cfg ∧ t = (s.appended b).advance :=
  append_andThen_eq_next

theorem lengthFits_iff {capacity : Nat} {lo hi : Byte} :
    lengthFits capacity lo hi = true ↔ lo.toNat + 256 * hi.toNat ≤ capacity :=
  decide_eq_true_iff

theorem lastPayloadByte_iff {cur len : Half} : lastPayloadByte cur len = true ↔ cur + 1#16 = len := beq_iff_eq

/-- R102 where R96 selects RX.CMD.EMPTY or RX.CMD: the branch the length at hand chooses. -/
theorem takeCommandByte_eq (b : Byte) (s : State) :
    takeCommandByte b s =
      andThen (storeCommand b s) (fun u => .next (u.goto (if payloadEmpty s.len then .waitChecksum else .waitPayload))) :=
  andThen_congr fun u hu => by
    obtain ⟨-, rfl⟩ := storeCommand_eq_next.mp hu
    rfl

/-- R103, likewise: the byte at hand is the last one or more payload is due. -/
theorem takePayloadByte_eq (b : Byte) (s : State) :
    takePayloadByte b s =
      andThen (storePayload b s) (fun u => .next (if s.cur + 1#16 = s.len then u.goto .waitChecksum else u)) :=
  andThen_congr fun u hu => by
    obtain ⟨-, rfl⟩ := storePayload_eq_next.mp hu
    rfl

/-- The row that R96 selects performs what FEED_BYTE performs (30_encoding.md R61), where R24 holds for WaitLenHigh. -/
theorem rule_eq_feed {i : Instr} {b c : Byte} {rule : State → Result} {s : State} (hn : s.st = .waitLenHigh → s.n = 2#16)
    (hsel : s.decodeByte b = some i) (hrow : rowRule i = some (c, rule)) : rule s = feed b s := by
  unfold State.decodeByte at hsel
  cases hst : s.st <;> simp only [hst, selectTransition] at hsel
  case waitStart =>
    split at hsel <;> rename_i hb <;> cases hsel <;> cases hrow
    · simp [feed, hst, hb]
    · simp [feed, hst, hb]
  case waitLenLow => cases hsel; cases hrow; simp [feed, hst]
  case waitLenHigh =>
    split at hsel
    · rename_i lo hlo
      have hlen := takeLength_eq (b := b) (hn hst) hlo
      split at hsel <;> rename_i hb <;> cases hsel <;> cases hrow
      · rw [feed_of_waitLenHigh_of_le hst (hn hst) hlo (lengthFits_iff.mp hb)]
        exact congrArg (andThen · acceptLength) hlen
      · rw [feed_of_waitLenHigh_of_lt hst (hn hst) hlo (Nat.lt_of_not_le (mt lengthFits_iff.mpr hb))]
        exact congrArg (andThen · rejectLength) hlen
    · cases hsel
  case waitCommand =>
    rw [feed_eq_takeCommandByte b hst, takeCommandByte_eq]
    split at hsel <;> rename_i hb <;> cases hsel <;> cases hrow
    · simp only [hb, if_true]
    · simp only [hb, if_false, Bool.false_eq_true]
  case waitPayload =>
    rw [feed_eq_takePayloadByte b hst, takePayloadByte_eq]
    split at hsel <;> rename_i hb <;> cases hsel <;> cases hrow
    · simp only [lastPayloadByte_iff.mp hb, if_true]
    · simp only [mt lastPayloadByte_iff.mpr hb, if_false, andThen_next_right]
  case waitChecksum => cases hsel; cases hrow; simp [feed, hst]

/-- The invariant speaks of neither `ret` nor `pending`. -/
theorem State.inv_returning {s : State} (r : Ret) (h : s.Inv) : (s.returning r).Inv := h

theorem State.inv_withPending {s : State} (requests : List Request) (h : s.Inv) : { s with pending := requests }.Inv := h

theorem whenSelected_sound {i : Instr} {b : Byte} {rule : State → Result} {s : State} (h : s.Inv)
    (hrow : rowRule i = some (b, rule)) : Sound (whenSelected i b rule s) := by
  unfold whenSelected
  split
  · rename_i hsel
    have hn : s.st = .waitLenHigh → s.n = 2#16 := fun hst => by
      obtain ⟨-, -, hn, -⟩ := (State.inv_iff hst).mp h
      exact hn
    rw [rule_eq_feed (s := s.returning .nothing) hn hsel hrow]
    exact feed_sound b (State.inv_returning _ h)
  · exact Sound.refused _

/-- INIT within its range installs a legal configuration (43_dispatch_boundary.md R127). -/
theorem State.inv_construct {s : State} {capacity : Nat} (sink : Sink) (context : Token) (h : s.cfg.wf = true)
    (hcap : capacity ≤ maxCapacity) : (s.construct capacity sink context).Inv := by
  refine State.inv_of_idle ?_ ⟨rfl, rfl, rfl, rfl, rfl, rfl⟩
  simp only [Params.wf, Bool.and_eq_true, decide_eq_true_eq] at h ⊢
  obtain ⟨⟨-, hmax⟩, hcodes⟩ := h
  exact ⟨⟨hcap, hmax⟩, hcodes⟩

theorem execInit_sound {s : State} (capacity : Nat) (sink : Option Sink) (context : Token) (h : s.Inv) :
    Sound (execInit capacity sink context s) := by
  unfold execInit
  split
  · split
    · exact Sound.next (State.inv_construct _ _ h.1 ‹_›)
    · exact Sound.refused _
  · exact Sound.refused _

/-- Whatever instruction a sound state runs, the outcome is sound. -/
theorem exec_sound (i : Instr) {s : State} (h : s.Inv) : Sound (exec i s) := by
  rcases exec_cases i s with ⟨r, hi⟩ | ⟨bs, hi⟩ | ⟨b, rule, hrow, hi⟩ | hi | ⟨capacity, sink, context, hi⟩
  · exact hi ▸ Sound.next (State.inv_returning r h)
  · exact hi ▸ feedAll_sound bs (State.inv_returning _ h)
  · exact hi ▸ whenSelected_sound h hrow
  · exact hi ▸ Sound.next (State.inv_returning _ (State.inv_reinit h.1))
  · exact hi ▸ execInit_sound capacity sink context h

/-- Whatever request is next in a sound state, the step is sound. -/
theorem step_sound {s : State} (h : s.Inv) : Sound (step s) := by
  cases hp : s.pending with
  | nil => exact step_of_pending_nil hp ▸ Sound.next h
  | cons r rest => exact step_of_pending_cons hp ▸ exec_sound _ (State.inv_withPending _ h)

/-- Settles O35 (holds): every receiver transition takes one line of R24's table to another. -/
theorem stepKeepsInvariant : Obligations.StepKeepsInvariant := fun _ t h ht => (step_sound h).inv t ht

/-- Settles O37 (holds): every line of R24's table has room for one more byte, and a frame that completes is defined. -/
theorem invariantRulesOutBufferFaults : Obligations.InvariantRulesOutBufferFaults := fun _ h =>
  ⟨(step_sound h).bufferSafe.no_undefinedByte, (step_sound h).bufferSafe.no_bufferOverflow⟩

end Sys2Proof.Machine
end

section
/-! O36, O49, O57: the reset state and the moves of `st` and `n` (10_state.md R12, R25, 70_reset_and_hazards.md R155). -/

namespace Sys2Proof.Machine

/-- R25 at power-on. -/
theorem State.receiverIdle_reset : State.reset.receiverIdle := ⟨rfl, rfl, rfl, rfl, rfl, rfl⟩

/-- Settles O36 (holds): the reset state is idle, and the default parameters are legal. -/
theorem resetStateHasInvariant : Obligations.ResetStateHasInvariant :=
  State.inv_of_idle (by decide) State.receiverIdle_reset

/-- INIT within its range (43_dispatch_boundary.md R127). -/
theorem exec_init_of_le {capacity : Nat} (k : Sink) (context : Token) (s : State) (h : capacity ≤ 512) :
    exec (.init capacity (some k) context) s = .next (s.construct capacity k context) :=
  if_pos h

/-- RESET (43_dispatch_boundary.md R128). -/
theorem exec_reset (s : State) : exec .reset s = .next (s.reinit.returning .nothing) := rfl

theorem State.receiverIdle_reinit (s : State) : s.reinit.receiverIdle := ⟨rfl, rfl, rfl, rfl, rfl, rfl⟩

theorem State.receiverIdle_construct (capacity : Nat) (k : Sink) (context : Token) (s : State) :
    (s.construct capacity k context).receiverIdle := s.receiverIdle_reinit

/-- A power cycle is a fresh INIT with the arguments of the last one (70_reset_and_hazards.md R155). -/
theorem step_of_powerCycle {s : State} {rest : List Request} (h : s.pending = .powerCycle :: rest) :
    step s = exec (.init s.cfg.capacity (some s.cfg.sink) s.cfg.context) { s with pending := rest } :=
  step_of_pending_cons h

/-- Settles O49 (holds): all three ways end in `reinit()`, and a power cycle gives INIT the configuration it already has. -/
theorem threeWaysLeadToTheResetState : Obligations.ThreeWaysLeadToTheResetState := by
  refine ⟨⟨State.receiverIdle_reset, rfl, rfl⟩, fun s capacity k context hcap => ?_, fun s => ?_,
    fun s rest hpending hcap => ?_⟩
  · exact ⟨_, exec_init_of_le k context s hcap, s.receiverIdle_construct capacity k context, rfl, rfl, rfl, rfl, rfl⟩
  · exact ⟨_, exec_reset s, s.receiverIdle_reinit, rfl, rfl, rfl⟩
  · have hinit := exec_init_of_le s.cfg.sink s.cfg.context { s with pending := rest } hcap
    exact ⟨_, (step_of_powerCycle hpending).trans hinit, State.receiverIdle_construct .., rfl, rfl, rfl, hinit⟩

/-! ### The moves of FEED_BYTE -/

/-- Re-initialisation at the end of an operation that completes (10_state.md R22). -/
theorem idle_of_andThen_reinit {r : Result} {t : State} (h : andThen r (fun u => .next u.reinit) = .next t) :
    t.st = .waitStart ∧ t.n = 0#16 := by
  obtain ⟨u, -, hu⟩ := andThen_eq_next.mp h
  cases hu
  exact ⟨rfl, rfl⟩

theorem feed_moves_of_waitStart {s t : State} {b : Byte} (ht : feed b s = .next t) (hst : s.st = .waitStart) :
    (b ≠ startMarker ∧ t.st = .waitStart ∧ t.n = s.n) ∨ (b = startMarker ∧ t.st = .waitLenLow ∧ t.n = 1#16) := by
  by_cases hb : b = startMarker
  · subst hb
    rw [feed_startMarker_of_waitStart hst] at ht
    cases ht
    exact .inr ⟨rfl, rfl, rfl⟩
  · rw [feed_of_waitStart_of_ne hst hb] at ht
    cases ht
    exact .inl ⟨hb, hst, rfl⟩

theorem feed_moves_of_waitLenLow {s t : State} {b : Byte} (h : s.Inv) (ht : feed b s = .next t)
    (hst : s.st = .waitLenLow) : s.n = 1#16 ∧ t.st = .waitLenHigh ∧ t.n = 2#16 := by
  obtain ⟨-, -, hn, -⟩ := (State.inv_iff hst).mp h
  rw [feed_of_waitLenLow hst (State.room_of_inv h)] at ht
  cases ht
  exact ⟨hn, rfl, by simp [hn]⟩

theorem feed_moves_of_waitLenHigh {s t : State} {b : Byte} (h : s.Inv) (ht : feed b s = .next t)
    (hst : s.st = .waitLenHigh) :
    s.n = 2#16 ∧ ∃ lo : Byte, s.buf.read 1 = some lo ∧
      ((lo.toNat + 256 * b.toNat ≤ s.cfg.capacity ∧ t.st = .waitCommand ∧ t.n = 3#16) ∨
       (s.cfg.capacity < lo.toNat + 256 * b.toNat ∧ t.st = .waitStart ∧ t.n = 0#16)) := by
  obtain ⟨-, hbuf, hn, -⟩ := (State.inv_iff hst).mp h
  obtain ⟨lo, hlo⟩ := Memory.exists_read_of_filledTo hbuf (a := 1) (by simp [hn])
  refine ⟨hn, lo, hlo, ?_⟩
  rcases Nat.lt_or_ge s.cfg.capacity (lo.toNat + 256 * b.toNat) with hfull | hfit
  · rw [feed_of_waitLenHigh_of_lt hst hn hlo hfull] at ht
    exact .inr ⟨hfull, idle_of_andThen_reinit ht⟩
  · rw [feed_of_waitLenHigh_of_le hst hn hlo hfit] at ht
    cases ht
    exact .inl ⟨hfit, rfl, by simp [hn]⟩

theorem feed_moves_of_waitCommand {s t : State} {b : Byte} (h : s.Inv) (ht : feed b s = .next t)
    (hst : s.st = .waitCommand) :
    s.n = 3#16 ∧ t.n = 4#16 ∧ t.st = if s.len = 0#16 then .waitChecksum else .waitPayload := by
  obtain ⟨-, -, hn, -⟩ := (State.inv_iff hst).mp h
  rw [feed_of_waitCommand hst (State.room_of_inv h)] at ht
  cases ht
  exact ⟨hn, by simp [hn], by simp [payloadEmpty_iff]⟩

theorem feed_moves_of_waitPayload {s t : State} {b : Byte} (h : s.Inv) (ht : feed b s = .next t)
    (hst : s.st = .waitPayload) :
    t.n.toNat = s.n.toNat + 1 ∧ t.st = if s.cur.toNat + 1 = s.len.toNat then .waitChecksum else .waitPayload := by
  have hroom := State.room_of_inv h
  obtain ⟨hcfg, -, -, -, -, -, hcur⟩ := (State.inv_iff hst).mp h
  have hn := State.appended_n_toNat b hcfg hroom
  have hend : s.cur + 1#16 = s.len ↔ s.cur.toNat + 1 = s.len.toNat := by
    rw [← BitVec.toNat_inj, State.cur_succ_toNat hcur]
  rw [feed_of_waitPayload hst hroom] at ht
  by_cases hlast : s.cur + 1#16 = s.len
  · rw [if_pos hlast] at ht
    cases ht
    exact ⟨hn, (if_pos (hend.mp hlast)).symm⟩
  · rw [if_neg hlast] at ht
    cases ht
    exact ⟨hn, hst.trans (if_neg (mt hend.mpr hlast)).symm⟩

theorem feed_moves_of_waitChecksum {s t : State} {b : Byte} (h : s.Inv) (ht : feed b s = .next t)
    (hst : s.st = .waitChecksum) : t.st = .waitStart ∧ t.n = 0#16 := by
  rw [feed_of_waitChecksum hst (State.room_of_inv h)] at ht
  exact idle_of_andThen_reinit ht

/-- Settles O57 (holds): one row of R12's table per receiver state; the operations outside FEED_BYTE are read off `exec`. -/
theorem receiverMovesAlongTheTable : Obligations.ReceiverMovesAlongTheTable := by
  refine ⟨fun s t b h ht => ?_, fun s capacity k context hcap i hi => ?_, fun s c b bs i hi => ?_⟩
  · have hinv : (s.returning .nothing).Inv := State.inv_returning _ h
    have hfeed : feed b (s.returning .nothing) = .next t := ht
    cases hst : s.st with
    | waitStart =>
      rcases feed_moves_of_waitStart hfeed hst with hmove | hmove
      · exact .inl ⟨rfl, hmove⟩
      · exact .inr (.inl ⟨rfl, hmove⟩)
    | waitLenLow =>
      have hmove := feed_moves_of_waitLenLow hinv hfeed hst
      exact .inr (.inr (.inl ⟨rfl, hmove⟩))
    | waitLenHigh =>
      have hmove := feed_moves_of_waitLenHigh hinv hfeed hst
      exact .inr (.inr (.inr (.inl ⟨rfl, hmove⟩)))
    | waitCommand =>
      have hmove := feed_moves_of_waitCommand hinv hfeed hst
      exact .inr (.inr (.inr (.inr (.inl ⟨rfl, hmove⟩))))
    | waitPayload =>
      have hmove := feed_moves_of_waitPayload hinv hfeed hst
      exact .inr (.inr (.inr (.inr (.inr (.inl ⟨rfl, hmove⟩)))))
    | waitChecksum =>
      have hmove := feed_moves_of_waitChecksum hinv hfeed hst
      exact .inr (.inr (.inr (.inr (.inr (.inr ⟨rfl, hmove⟩)))))
  · rcases List.mem_pair.mp hi with rfl | rfl
    · exact ⟨_, exec_reset s, rfl, rfl⟩
    · exact ⟨_, exec_init_of_le k context s hcap, rfl, rfl⟩
  · have hret : ∃ r, exec i s = .next (s.returning r) := by
      fin_cases hi <;> exact ⟨_, rfl⟩
    obtain ⟨r, hr⟩ := hret
    exact ⟨_, hr, rfl, rfl⟩

end Sys2Proof.Machine
end

section
/-! O20: `append` (20_memory.md R32) on a buffer whose contents are known. -/

namespace Sys2Proof.Machine

/-- A byte written right behind a range that reads as `bs` lengthens what the range reads as. -/
theorem Memory.readRange_write_end {m : Memory} {a : Nat} {bs : List Byte} (b : Byte)
    (h : m.readRange a bs.length = some bs) :
    (m.write (a + bs.length) b).readRange a (bs ++ [b]).length = some (bs ++ [b]) := by
  rw [Memory.readRange_eq_some] at h ⊢
  intro i hi
  rw [List.length_append, List.length_singleton] at hi
  rcases Nat.lt_succ_iff_lt_or_eq.mp hi with hlt | rfl
  · rw [Memory.read_write_other _ _ _ _ (by omega), h i hlt, List.getElem?_append_left hlt]
  · rw [Memory.read_write_same, List.getElem?_concat_length]

/-- The fill count does not wrap (10_state.md R10): FRAME_BUF_SIZE is at most 517. -/
theorem State.buffers_appended {s : State} {frame : List Byte} (b : Byte) (hcap : s.cfg.capacity ≤ 512)
    (hbuf : s.buffers frame) (hroom : s.n.toNat < frameBufSize s.cfg) : (s.appended b).buffers (frame ++ [b]) := by
  obtain ⟨hn, hread⟩ := hbuf
  have hsmall : s.n.toNat < 517 := hroom.trans_le (Nat.add_le_add_right hcap 5)
  constructor
  · rw [State.appended_n, BitVec.toNat_add_of_lt (by simp; omega), List.length_append, hn]
    rfl
  · have hwrite := Memory.readRange_write_end b hread
    rwa [Nat.zero_add, ← hn] at hwrite

/-- Settles O20 (holds): with room the outcome is `State.appended`, which writes position `n` alone. -/
theorem appendExtendsTheBufferedBytes : Obligations.AppendExtendsTheBufferedBytes := by
  intro s b frame hcap hbuf
  have hn : s.n.toNat = frame.length := hbuf.1
  refine ⟨fun hlt => ?_, fun hfull => ?_⟩
  · have hroom : s.n.toNat < frameBufSize s.cfg := hn ▸ hlt
    refine ⟨s.appended b, State.append_eq_appended b hroom, State.buffers_appended b hcap hbuf hroom, ?_, rfl⟩
    intro x hx
    exact Memory.read_write_other s.buf s.n.toNat x b (hn ▸ hx)
  · have hnoroom : ¬ s.n.toNat < frameBufSize s.cfg := hn ▸ Nat.not_lt.mpr hfull
    exact State.append_eq_fault.mpr ⟨hnoroom, rfl⟩

end Sys2Proof.Machine
end

section
/-! O31: what FEED_BYTE emits (20_memory.md R43): each raised response and each completed frame is one acknowledgement. -/

namespace Sys2Proof.Machine

/-- The checksum ENCODE_FRAME and ENCODE_ACK put last is the one VERIFY_FRAME_CRC computes (41_frame_codec.md R84). -/
theorem verifyFrameCrc_frameBytes (lenField : Nat) (code : Byte) (rest : List Byte) :
    verifyFrameCrc (frameBytes lenField code rest) = true := by
  rw [frameBytes, List.cons_append, verifyFrameCrc_split, length_frameBody]
  simp

/-- From `s` to `t` TX has grown by one frame with a valid checksum, written to the SINK of `s`; DSP may have grown too. -/
def State.acknowledgedIn (s t : State) : Prop :=
  ∃ bytes, t.tx = s.tx ++ [s.writeOf bytes] ∧ verifyFrameCrc bytes = true

theorem respond_acknowledges {s t : State} {code : Byte} {extra : List Byte} (ht : s.respond code extra = .next t) :
    s.acknowledgedIn t := by
  obtain ⟨-, -, rfl⟩ := State.respond_eq_next.mp ht
  exact ⟨ackFrame code extra, rfl, verifyFrameCrc_frameBytes _ _ _⟩

theorem dispatch_acknowledges {s t : State} {cmd : Byte} {payload : List Byte} (ht : s.dispatch cmd payload = .next t) :
    s.acknowledgedIn t := by
  obtain ⟨code, extra, -, -, -, rfl⟩ := State.dispatch_eq_next.mp ht
  exact ⟨ackFrame code extra, rfl, verifyFrameCrc_frameBytes _ _ _⟩

/-- Valid or not, a completed frame is answered once (42_frame_receiver.md R108). -/
theorem completeFrame_acknowledges {s t : State} (hbuf : s.buf.filledTo s.n.toNat) (hn : 4 + s.len.toNat ≤ s.n.toNat)
    (ht : completeFrame s = .next t) : s.acknowledgedIn t := by
  obtain ⟨payload, h | h⟩ := completeFrame_of_filledTo hbuf hn
  · exact dispatch_acknowledges (h.symm.trans ht)
  · exact respond_acknowledges (h.symm.trans ht)

/-- `reinit()` leaves what the operation before it emitted (10_state.md R22). -/
theorem acknowledgedIn_of_andThen_reinit {r : Result} {s t : State} (hr : ∀ u, r = .next u → s.acknowledgedIn u)
    (ht : andThen r (fun u => .next u.reinit) = .next t) : s.acknowledgedIn t := by
  obtain ⟨u, hu, hut⟩ := andThen_eq_next.mp ht
  cases hut
  exact hr u hu

theorem feed_acknowledges_of_waitLenHigh {s t : State} {b lo : Byte} (h : s.Inv) (hst : s.st = .waitLenHigh)
    (hlo : s.buf.read 1 = some lo) (hfull : s.cfg.capacity < lo.toNat + 256 * b.toNat) (ht : feed b s = .next t) :
    s.acknowledgedIn t := by
  obtain ⟨-, -, hn, -⟩ := (State.inv_iff hst).mp h
  rw [feed_of_waitLenHigh_of_lt hst hn hlo hfull] at ht
  exact acknowledgedIn_of_andThen_reinit (s := { s.appended b with len := fromLe16 lo b })
    (fun _ hu => respond_acknowledges hu) ht

theorem feed_acknowledges_of_waitChecksum {s t : State} {b : Byte} (h : s.Inv) (hst : s.st = .waitChecksum)
    (ht : feed b s = .next t) : s.acknowledgedIn t := by
  have hroom := State.room_of_inv h
  obtain ⟨hcfg, hbuf, hn, -⟩ := (State.inv_iff hst).mp h
  have hn' := State.appended_n_toNat b hcfg hroom
  rw [feed_of_waitChecksum hst hroom] at ht
  have hframe : 4 + (s.appended b).len.toNat ≤ (s.appended b).n.toNat := by rw [State.appended_len]; omega
  exact acknowledgedIn_of_andThen_reinit (s := s.appended b)
    (fun _ hu => completeFrame_acknowledges (State.filledTo_appended b hcfg hroom hbuf) hframe hu) ht

/-- A byte that ends no frame is stored, or dropped, and nothing is emitted or logged (20_memory.md R43). -/
theorem feed_silent {s t : State} {b lo : Byte} (h : s.Inv) (hlo : s.st = .waitLenHigh → s.buf.read 1 = some lo)
    (hcheck : s.st ≠ .waitChecksum) (hfit : s.st = .waitLenHigh → lo.toNat + 256 * b.toNat ≤ s.cfg.capacity)
    (ht : feed b s = .next t) : t.tx = s.tx ∧ t.dsp = s.dsp := by
  have hroom := State.room_of_inv h
  cases hst : s.st with
  | waitStart =>
    by_cases hb : b = startMarker
    · subst hb
      rw [feed_startMarker_of_waitStart hst] at ht
      cases ht; exact ⟨rfl, rfl⟩
    · rw [feed_of_waitStart_of_ne hst hb] at ht
      cases ht; exact ⟨rfl, rfl⟩
  | waitLenLow =>
    rw [feed_of_waitLenLow hst hroom] at ht
    cases ht; exact ⟨rfl, rfl⟩
  | waitLenHigh =>
    obtain ⟨-, -, hn, -⟩ := (State.inv_iff hst).mp h
    rw [feed_of_waitLenHigh_of_le hst hn (hlo hst) (hfit hst)] at ht
    cases ht; exact ⟨rfl, rfl⟩
  | waitCommand =>
    rw [feed_of_waitCommand hst hroom] at ht
    cases ht; exact ⟨rfl, rfl⟩
  | waitPayload =>
    rw [feed_of_waitPayload hst hroom] at ht
    cases ht
    split <;> exact ⟨rfl, rfl⟩
  | waitChecksum => exact absurd hst hcheck

/-- Settles O31 (holds): the two places that emit are R100's rejection and R104; every other branch of R97 to R103 keeps
TX and DSP. -/
theorem feedByteEmitsAtMostOnce : Obligations.FeedByteEmitsAtMostOnce := by
  intro s t b lo h hlo ht
  have hinv : (s.returning .nothing).Inv := State.inv_returning _ h
  have hfeed : feed b (s.returning .nothing) = .next t := ht
  have hread : s.st = .waitLenHigh → s.buf.read 1 = some lo := fun hst => hlo.resolve_right (not_not_intro hst)
  refine ⟨?_, fun ⟨hcheck, hfit⟩ => ?_⟩
  · rintro (hst | ⟨hst, hfull⟩)
    · exact feed_acknowledges_of_waitChecksum (s := s.returning .nothing) hinv hst hfeed
    · exact feed_acknowledges_of_waitLenHigh (s := s.returning .nothing) hinv hst (hread hst) hfull hfeed
  · exact feed_silent (s := s.returning .nothing) hinv hread hcheck hfit hfeed

end Sys2Proof.Machine
end

section
/-! O51: the pure operations, and which of the others may be repeated (20_memory.md R41). -/

namespace Sys2Proof.Machine

/-- The result of a pure operation depends on the block through MAX_ACK_EXTRA at most. -/
theorem exists_exec_eq_returning_of_pure {i : Instr} {c b : Byte} {bs : List Byte}
    (hi : i ∈ [Instr.crc8Update c b, .crc8 bs, .encodeFrame c bs, .encodeAck c bs, .verifyFrameCrc bs, .decodeFrame bs]) :
    ∃ result : Nat → Ret, ∀ s, exec i s = .next (s.returning (result s.cfg.maxAckExtra)) := by
  simp only [List.mem_cons, List.not_mem_nil, or_false] at hi
  rcases hi with rfl | rfl | rfl | rfl | rfl | rfl
  · exact ⟨fun _ => .byte (crc8Update c b), fun _ => rfl⟩
  · exact ⟨fun _ => .byte (crc8 bs), fun _ => rfl⟩
  · exact ⟨fun _ => .encoded (encodeFrame c bs), fun _ => rfl⟩
  · exact ⟨fun maxExtra => .encoded (encodeAck maxExtra c bs), fun _ => rfl⟩
  · exact ⟨fun _ => .verdict (verifyFrameCrc bs), fun _ => rfl⟩
  · exact ⟨fun _ => .decoded (decodeFrame bs), fun _ => rfl⟩

/-- RESET is idempotent (20_memory.md R41). -/
theorem exec_reset_of_exec_reset {s t : State} (ht : exec .reset s = .next t) : exec .reset t = .next t := by
  rw [exec_reset] at ht ⊢
  cases ht
  rfl

/-- Two start markers from WaitStart leave WaitLenLow and then WaitLenHigh: inside a frame 0xA5 is a length octet
(42_frame_receiver.md R99, R105). -/
theorem st_of_two_startMarkers {s t u : State} (h : s.Inv) (hst : s.st = .waitStart)
    (ht : exec (.feedByte startMarker) s = .next t) (hu : exec (.feedByte startMarker) t = .next u) :
    t.st = .waitLenLow ∧ u.st = .waitLenHigh := by
  have hlow : t.st = .waitLenLow := by
    rcases feed_moves_of_waitStart (s := s.returning .nothing) ht hst with ⟨hne, -⟩ | ⟨-, hmove, -⟩
    · exact absurd rfl hne
    · exact hmove
  have htinv : t.Inv := (exec_sound _ h).inv t ht
  obtain ⟨-, hhigh, -⟩ := feed_moves_of_waitLenLow (State.inv_returning .nothing htinv) hu hlow
  exact ⟨hlow, hhigh⟩

/-- Settles O51 (holds): pure results factor through MAX_ACK_EXTRA, RESET repeats itself, FEED_BYTE moves on. -/
theorem pureOperationsIgnoreTheReceiver : Obligations.PureOperationsIgnoreTheReceiver := by
  refine ⟨fun c b bs i hi s u hmax => ?_, fun s t ht => exec_reset_of_exec_reset ht, fun s t u h hst ht hu heq => ?_⟩
  · obtain ⟨result, hresult⟩ := exists_exec_eq_returning_of_pure hi
    exact ⟨result s.cfg.maxAckExtra, hresult s, hmax ▸ hresult u⟩
  · obtain ⟨hlow, hhigh⟩ := st_of_two_startMarkers h hst ht hu
    rw [heq, hlow] at hhigh
    cases hhigh

end Sys2Proof.Machine
end

section
/-! O10, O11: where the fields of a frame stand (30_encoding.md R46, R47). -/

namespace Sys2Proof.Machine

theorem frameBytes_getElem?_rest (lenField : Nat) (code : Byte) {rest : List Byte} {i : Nat} (hi : i < rest.length) :
    (frameBytes lenField code rest)[4 + i]? = rest[i]? := by
  simp [frameBytes_eq, Nat.add_comm 4, List.getElem?_append_left hi]

theorem frameBytes_getElem?_checksum (lenField : Nat) (code : Byte) (rest : List Byte) :
    (frameBytes lenField code rest)[4 + rest.length]? = some (crc8 (frameBody lenField code rest)) := by
  simp [frameBytes_eq, Nat.add_comm 4]

/-- Settles O10 (holds): the fields are read off the written-out frame; a length of at most 512 bounds its high octet. -/
theorem requestFrameHasItsLayout : Obligations.RequestFrameHasItsLayout := by
  intro p cmd payload hlen
  have hjoin := le16_join payload.length (by omega)
  exact ⟨requestFrame cmd payload, _, _, rfl, length_frameBytes _ _ _, rfl, rfl, rfl, rfl, hjoin, by omega,
    fun hhi => BitVec.eq_of_toNat_eq (show _ = 0 by omega),
    fun _ hi => frameBytes_getElem?_rest _ _ hi, frameBytes_getElem?_checksum _ _ _⟩

/-- Settles O11 (holds): the same frame, with a length field that counts the error code (30_encoding.md R50). -/
theorem ackFrameHasItsLayout : Obligations.AckFrameHasItsLayout := by
  intro p code extra hlen
  have hjoin := le16_join (ackLenBias + extra.length) (by rw [ackLenBias]; omega)
  exact ⟨ackFrame code extra, _, _, rfl, length_frameBytes _ _ _, rfl, rfl, rfl, rfl, hjoin,
    fun _ hi => frameBytes_getElem?_rest _ _ hi, frameBytes_getElem?_checksum _ _ _⟩

end Sys2Proof.Machine
end

section
/-! O17, O19: each frame format and each code row is read back from its encoding (30_encoding.md R46, R47, R51, R53). -/

namespace Sys2Proof.Machine

/-! ### What the readers of a frame find in it -/

theorem lengthField_frameBytes {lenField : Nat} (h : lenField < 65536) (code : Byte) (rest : List Byte) :
    lengthField (frameBytes lenField code rest) = lenField := by
  rw [lengthField, frameBytes_eq, fromLe16_toNat]
  exact le16_join lenField h

@[simp] theorem byteAt_frameBytes_zero (lenField : Nat) (code : Byte) (rest : List Byte) :
    byteAt (frameBytes lenField code rest) 0 = startMarker := rfl

@[simp] theorem byteAt_frameBytes_three (lenField : Nat) (code : Byte) (rest : List Byte) :
    byteAt (frameBytes lenField code rest) 3 = code := rfl

@[simp] theorem slice_frameBytes (lenField : Nat) (code : Byte) (rest : List Byte) :
    slice (frameBytes lenField code rest) 4 rest.length = rest := by
  simp [slice, frameBytes_eq]

/-- DECODE_FRAME passes each of its five tests on a request frame (41_frame_codec.md R85). -/
theorem decodeFrame_requestFrame (cmd : Byte) {payload : List Byte} (h : payload.length ≤ maxPayload) :
    decodeFrame (requestFrame cmd payload) = .ok cmd payload := by
  have hmax : payload.length ≤ 512 := h
  have hlen := lengthField_frameBytes (lenField := payload.length) (by omega) cmd payload
  simp [decodeFrame, requestFrame, hlen, h, minFrame, verifyFrameCrc_frameBytes]

/-- The reader of acknowledgements takes the error code off the length field (30_encoding.md R47, R50). -/
theorem decodeAckFrame_ackFrame (code : Byte) {extra : List Byte} (h : extra.length ≤ maxAckExtraLimit) :
    decodeAckFrame (ackFrame code extra) = .ok code extra := by
  have hmax : extra.length ≤ 65534 := h
  have hlen := lengthField_frameBytes (lenField := ackLenBias + extra.length) (by rw [ackLenBias]; omega) code extra
  have hsize : 5 + extra.length + ackLenBias = 5 + (ackLenBias + extra.length) := by omega
  simp [decodeAckFrame, ackFrame, hlen, hsize, minFrame, verifyFrameCrc_frameBytes]

theorem decodeRequestFrame_requestFrame (cmd : Byte) {payload : List Byte} (h : payload.length ≤ maxPayload) :
    decodeRequestFrame (requestFrame cmd payload) = some (.req cmd payload) := by
  simp only [decodeRequestFrame, decodeFrame_requestFrame cmd h]

theorem decodeAcknowledgement_ackFrame (code : Byte) {extra : List Byte} (h : extra.length ≤ maxAckExtraLimit) :
    decodeAcknowledgement (ackFrame code extra) = some (.ack code extra) := by
  simp only [decodeAcknowledgement, decodeAckFrame_ackFrame code h]

theorem decodeResponse_ackFrame (p : Params) (code : Byte) {extra : List Byte} (h : extra.length ≤ maxAckExtraLimit) :
    decodeResponse p (ackFrame code extra) = decodeErrCode p code extra := by
  simp only [decodeResponse, decodeAckFrame_ackFrame code h]

/-! ### Command codes -/

/-- A numbered code decodes to a row that has it. -/
theorem encode_of_decodeNumberedCode (p : Params) {b : Byte} {j : Instr} (h : decodeNumberedCode b = some j) :
    encode p j = some [b] := by
  unfold decodeNumberedCode at h
  split at h
  · cases h; subst b; rfl
  · split at h
    · cases h; subst b; rfl
    · split at h
      · cases h; subst b; rfl
      · cases h

/-- Byte 3 of a request decodes to a row that has it as its code, whichever of two equal codes is read (log 5). -/
theorem encode_of_decodeCmdCode (p : Params) {b : Byte} {j : Instr} (h : decodeCmdCode b = some j) :
    encode p j = some [b] := by
  unfold decodeCmdCode at h
  split at h
  · cases h; exact encode_of_decodeNumberedCode p ‹_›
  · split at h
    · cases h; subst b; rfl
    · split at h
      · cases h; subst b; rfl
      · split at h
        · cases h; subst b; rfl
        · cases h

/-- Each open code decodes to some row, whatever its value. -/
theorem exists_decodeCmdCode_of_query {b : Byte}
    (h : b = Config.cmdQueryStack ∨ b = Config.cmdQueryMemory ∨ b = Config.cmdQueryWord) :
    ∃ j, decodeCmdCode b = some j := by
  unfold decodeCmdCode
  split
  · exact ⟨_, rfl⟩
  · split
    · exact ⟨_, rfl⟩
    · split
      · exact ⟨_, rfl⟩
      · exact ⟨_, if_pos ((h.resolve_left ‹_›).resolve_left ‹_›)⟩

theorem query_decodes_to_its_code (p : Params) {i : Instr}
    (hi : i ∈ [Instr.cmdQueryStack, .cmdQueryMemory, .cmdQueryWord]) :
    ∃ (b : Byte) (j : Instr), encode p i = some [b] ∧ decodeCmdCode b = some j ∧ encode p j = some [b] := by
  obtain ⟨b, hb, hquery⟩ : ∃ b, encode p i = some [b] ∧
      (b = Config.cmdQueryStack ∨ b = Config.cmdQueryMemory ∨ b = Config.cmdQueryWord) := by
    simp only [List.mem_cons, List.not_mem_nil, or_false] at hi
    rcases hi with rfl | rfl | rfl
    · exact ⟨_, rfl, .inl rfl⟩
    · exact ⟨_, rfl, .inr (.inl rfl)⟩
    · exact ⟨_, rfl, .inr (.inr rfl)⟩
  obtain ⟨j, hj⟩ := exists_decodeCmdCode_of_query hquery
  exact ⟨b, j, hb, hj, encode_of_decodeCmdCode p hj⟩

/-! ### Error codes -/

/-- A well-formed error row is an acknowledgement whose code, under distinct codes, is read as that row. -/
theorem errRow_encoding {p : Params} (hcodes : p.errCodes.Nodup) {i : Instr} {extra : List Byte}
    (hi : i ∈ [Instr.errOk extra, .errGeneral extra, .errInvalidFrame extra, .errVm extra, .errBufferFull])
    (hwf : i.wf = true) :
    ∃ (code : Byte) (xs : List Byte), xs.length ≤ maxAckExtraLimit ∧ encode p i = some (ackFrame code xs) ∧
      decodeErrCode p code xs = some i := by
  simp only [Params.errCodes, List.nodup_cons, List.mem_cons, List.not_mem_nil, or_false, not_or] at hcodes
  obtain ⟨⟨hok1, hok2, hok3, hok4⟩, ⟨hgen2, hgen3, hgen4⟩, ⟨hinv3, hinv4⟩, hfull4, -⟩ := hcodes
  simp only [List.mem_cons, List.not_mem_nil, or_false] at hi
  rcases hi with rfl | rfl | rfl | rfl | rfl
  · exact ⟨p.errOk, extra, of_decide_eq_true hwf, rfl, by simp [decodeErrCode]⟩
  · exact ⟨p.errGeneral, extra, of_decide_eq_true hwf, rfl, by simp [decodeErrCode, Ne.symm hok1]⟩
  · exact ⟨p.errInvalidFrame, extra, of_decide_eq_true hwf, rfl, by simp [decodeErrCode, Ne.symm hok2, Ne.symm hgen2]⟩
  · exact ⟨p.errVm, extra, of_decide_eq_true hwf, rfl,
      by simp [decodeErrCode, Ne.symm hok4, Ne.symm hgen4, Ne.symm hinv4, Ne.symm hfull4]⟩
  · exact ⟨p.errBufferFull, [], Nat.zero_le _, rfl,
      by simp [decodeErrCode, Ne.symm hok3, Ne.symm hgen3, Ne.symm hinv3]⟩

theorem Params.errCodes_nodup_of_wf {p : Params} (h : p.wf = true) : p.errCodes.Nodup := by
  simp only [Params.wf, Bool.and_eq_true, decide_eq_true_eq] at h
  obtain ⟨-, hcodes⟩ := h
  exact hcodes

/-- Settles O17 (holds): both readers undo `frameBytes`; a code row is found by its code, an error row since the codes
are distinct. -/
theorem frameAndCodeRowsDecodeBack : Obligations.FrameAndCodeRowsDecodeBack := by
  intro p hp
  refine ⟨fun cmd payload hwf => ?_, fun code extra hwf => ?_, fun i hi => ?_, fun i hi => ?_, fun extra i hi hwf => ?_⟩
  · exact ⟨_, rfl, decodeRequestFrame_requestFrame cmd (of_decide_eq_true hwf)⟩
  · exact ⟨_, rfl, decodeAcknowledgement_ackFrame code (of_decide_eq_true hwf)⟩
  · simp only [List.mem_cons, List.not_mem_nil, or_false] at hi
    rcases hi with rfl | rfl | rfl <;> exact ⟨_, rfl, rfl⟩
  · exact query_decodes_to_its_code p hi
  · obtain ⟨code, xs, hlen, henc, hdec⟩ := errRow_encoding (Params.errCodes_nodup_of_wf hp) hi hwf
    exact ⟨_, henc, (decodeResponse_ackFrame p code hlen).trans hdec⟩

/-- A frame that is whole is the beginning of a request frame with no byte missing (log 2). -/
theorem decodeFrameStart_requestFrame (cmd : Byte) {payload : List Byte} (h : payload.length ≤ maxPayload) :
    decodeFrameStart (requestFrame cmd payload) = some (.req cmd payload) := by
  have hmax : payload.length ≤ 512 := h
  have hlen : lengthField (requestFrame cmd payload) = payload.length :=
    lengthField_frameBytes (by omega) cmd payload
  have hsize : (requestFrame cmd payload).length = 5 + payload.length := length_frameBytes _ _ _
  rw [decodeFrameStart, hlen, hsize, Nat.sub_self, List.replicate_zero, List.append_nil]
  exact decodeRequestFrame_requestFrame cmd h

/-- Settles O19 (holds): the written frames are what the encoder builds, so their readers give back the rows; a lone byte
is looked up. -/
theorem writtenWordsDecode : Obligations.WrittenWordsDecode := by
  have hping : firstByte 0xE0200000A5 :: laterBytes 40 0xE0200000A5 = requestFrame 0x20#8 [] := by decide +kernel
  have hexec : [0xA5#8, 0x01#8, 0x00#8, 0x10#8, 0xA5#8, 0x33#8] = requestFrame 0x10#8 [0xA5#8] := by decide +kernel
  have hack : [0xA5#8, 0x04#8, 0x00#8, 0x00#8, 0x01#8, 0x07#8, 0x00#8, 0xA4#8] =
      ackFrame 0x00#8 [0x01#8, 0x07#8, 0x00#8] := by decide +kernel
  refine ⟨rfl, rfl, rfl, rfl, ?_, ?_, ?_⟩
  · calc decodeTableWord 40 0xE0200000A5
      _ = decodeFrameStart (firstByte 0xE0200000A5 :: laterBytes 40 0xE0200000A5) := rfl
      _ = some (.req 0x20#8 []) := by rw [hping]; exact decodeFrameStart_requestFrame 0x20#8 (Nat.zero_le _)
  · rw [hexec]; exact decodeRequestFrame_requestFrame 0x10#8 (by decide)
  · rw [hack]; exact decodeAcknowledgement_ackFrame 0x00#8 (by decide)

end Sys2Proof.Machine
end

section
/-! O18, O29: which transition row a byte selects, and a row that is not selected (30_encoding.md R61, 42_frame_receiver.md
R96). -/

namespace Sys2Proof.Machine

/-- The selected row takes the byte that selects it, in each receiver state. -/
theorem selectTransition_encodes (p : Params) (st : RxState) (fits : Bool) (len cur : Half) (b : Byte) :
    encode p (selectTransition st fits len cur b) = some [b] ∧ (selectTransition st fits len cur b).wf = true := by
  cases st <;> simp only [selectTransition]
  case waitStart =>
    by_cases hb : b = startMarker
    · simp [isStart, hb, encode, Instr.wf]
    · simp [isStart, hb, encode, Instr.wf]
  case waitLenLow | waitChecksum => exact ⟨rfl, rfl⟩
  case waitLenHigh | waitCommand | waitPayload => split <;> exact ⟨rfl, rfl⟩

/-- Settles O18 (holds): each row names the receiver state and the length or cursor that select it. -/
theorem transitionRowsDecodeBack : Obligations.TransitionRowsDecodeBack := by
  refine ⟨selectTransition_encodes, fun p b i hi hwf => ?_⟩
  simp only [List.mem_cons, List.not_mem_nil, or_false] at hi
  rcases hi with rfl | rfl | rfl | rfl | rfl | rfl | rfl | rfl | rfl | rfl
  · have hb : isStart b = false := beq_eq_false_iff_ne.mpr (bne_iff_ne.mp hwf)
    exact ⟨.waitStart, false, 0#16, 0#16, b, rfl, by simp [selectTransition, hb]⟩
  · exact ⟨.waitStart, false, 0#16, 0#16, startMarker, rfl, rfl⟩
  · exact ⟨.waitLenLow, false, 0#16, 0#16, b, rfl, rfl⟩
  · exact ⟨.waitLenHigh, true, 0#16, 0#16, b, rfl, rfl⟩
  · exact ⟨.waitLenHigh, false, 0#16, 0#16, b, rfl, rfl⟩
  · exact ⟨.waitCommand, false, 1#16, 0#16, b, rfl, rfl⟩
  · exact ⟨.waitCommand, false, 0#16, 0#16, b, rfl, rfl⟩
  · exact ⟨.waitPayload, false, 2#16, 0#16, b, rfl, rfl⟩
  · exact ⟨.waitPayload, false, 1#16, 0#16, b, rfl, rfl⟩
  · exact ⟨.waitChecksum, false, 0#16, 0#16, b, rfl, rfl⟩

/-- `rowRule` says what `exec` does with a transition row. -/
theorem exec_of_rowRule {i : Instr} {b : Byte} {rule : State → Result} (hrow : rowRule i = some (b, rule)) (s : State) :
    exec i s = whenSelected i b rule s := by
  cases i <;> cases hrow <;> rfl

/-- A transition row has no effect of its own where its byte does not select it (log 3). -/
theorem exec_of_not_selected {i : Instr} {b : Byte} {rule : State → Result} {s : State}
    (hrow : rowRule i = some (b, rule)) (hsel : s.decodeByte b ≠ some i) : exec i s = .refused .notSelected := by
  rw [exec_of_rowRule hrow, whenSelected, if_neg hsel]

/-- Settles O29 (holds): every transition row is guarded by the same selection. -/
theorem unselectedTransitionIsRefused : Obligations.UnselectedTransitionIsRefused := by
  intro s b
  refine ⟨fun i hi hsel => ?_, fun hsel => exec_of_not_selected rfl hsel⟩
  have hrow : ∃ rule, rowRule i = some (b, rule) := by
    fin_cases hi <;> exact ⟨_, rfl⟩
  obtain ⟨rule, hrow⟩ := hrow
  exact exec_of_not_selected hrow hsel

end Sys2Proof.Machine
end

section
/-! O52, O53: the code rows as instructions (30_encoding.md R51, R53; logs 5, 6). -/

namespace Sys2Proof.Machine

/-- FEED_BYTE in WaitCommand with room in the buffer (42_frame_receiver.md R102). -/
theorem exec_feedByte_of_waitCommand {s : State} (b : Byte) (hst : s.st = .waitCommand)
    (hroom : s.n.toNat < frameBufSize s.cfg) :
    exec (.feedByte b) s =
      .next { s with
        st := if s.len = 0#16 then .waitChecksum else .waitPayload
        buf := s.buf.write s.n.toNat b, n := s.n + 1#16, cmd := b, cur := 0#16, ret := .nothing } := by
  have hfeed := feed_of_waitCommand (s := s.returning .nothing) (b := b) hst hroom
  simp only [State.returning_len, payloadEmpty_iff] at hfeed
  exact hfeed

/-- A command-code row is its code arriving at RX, an open code like a numbered one (30_encoding.md R51). -/
theorem exec_commandCode {i : Instr} {code : Byte}
    (hi : (i, code) ∈ [(Instr.cmdExec, 0x10#8), (.cmdPing, 0x20#8), (.cmdReset, 0xFF#8),
      (.cmdQueryStack, Config.cmdQueryStack), (.cmdQueryMemory, Config.cmdQueryMemory),
      (.cmdQueryWord, Config.cmdQueryWord)]) (s : State) : exec i s = exec (.feedByte code) s := by
  simp only [List.mem_cons, List.not_mem_nil, or_false, Prod.mk.injEq] at hi
  rcases hi with ⟨rfl, rfl⟩ | ⟨rfl, rfl⟩ | ⟨rfl, rfl⟩ | ⟨rfl, rfl⟩ | ⟨rfl, rfl⟩ | ⟨rfl, rfl⟩ <;> rfl

/-- Settles O52 (holds): a code row is FEED_BYTE of its code, and R102 stores that byte. -/
theorem commandCodesAreStoredAsCommand : Obligations.CommandCodesAreStoredAsCommand := fun s _ code hi =>
  ⟨exec_commandCode hi s, fun hst hroom => (exec_commandCode hi s).trans (exec_feedByte_of_waitCommand code hst hroom)⟩

theorem encodeAck_of_le {maxExtra : Nat} {extra : List Byte} (code : Byte) (h : extra.length ≤ maxExtra) :
    encodeAck maxExtra code extra = .ok (ackFrame code extra) :=
  if_neg (Nat.not_lt.mpr h)

theorem encodeAck_of_lt {maxExtra : Nat} {extra : List Byte} (code : Byte) (h : maxExtra < extra.length) :
    encodeAck maxExtra code extra = .fail :=
  if_pos h

/-- An error-code row with an operand is `acknowledgeWith` of its code. -/
theorem exec_errorCode {i : Instr} {code : Byte} {extra : List Byte} {s : State}
    (hi : (i, code) ∈ [(Instr.errOk extra, s.cfg.errOk), (.errGeneral extra, s.cfg.errGeneral),
      (.errInvalidFrame extra, s.cfg.errInvalidFrame), (.errVm extra, s.cfg.errVm)]) :
    exec i s = acknowledgeWith code extra s := by
  simp only [List.mem_cons, List.not_mem_nil, or_false, Prod.mk.injEq] at hi
  rcases hi with ⟨rfl, rfl⟩ | ⟨rfl, rfl⟩ | ⟨rfl, rfl⟩ | ⟨rfl, rfl⟩ <;> rfl

theorem acknowledgeWith_of_le {extra : List Byte} {s : State} (code : Byte) (h : extra.length ≤ s.cfg.maxAckExtra) :
    acknowledgeWith code extra s = .next { s with ret := .encoded (.ok (ackFrame code extra)) } := by
  rw [acknowledgeWith, encodeAck_of_le code h]
  rfl

theorem acknowledgeWith_of_lt {extra : List Byte} {s : State} (code : Byte) (h : s.cfg.maxAckExtra < extra.length) :
    acknowledgeWith code extra s = .next { s with ret := .encoded .fail } := by
  rw [acknowledgeWith, encodeAck_of_lt code h]
  rfl

/-- Settles O53 (holds): `acknowledgeWith` on both sides of MAX_ACK_EXTRA; no extra payload is never above it. -/
theorem errorCodesBuildTheirAcknowledgement : Obligations.ErrorCodesBuildTheirAcknowledgement := by
  intro s extra
  refine ⟨fun i code hi => ⟨fun hle => ?_, fun hlt => ?_⟩, acknowledgeWith_of_le s.cfg.errBufferFull (Nat.zero_le _)⟩
  · exact (exec_errorCode hi).trans (acknowledgeWith_of_le code hle)
  · exact (exec_errorCode hi).trans (acknowledgeWith_of_lt code hlt)

end Sys2Proof.Machine
end

section
/-! O43: with collaborators that keep the contract every byte a sound state is fed completes (42_frame_receiver.md R106). -/

namespace Sys2Proof.Machine

theorem Params.sink_returns_of_contract {p : Params} (h : p.contract = true) : p.sink.returns = true := by
  simp only [Params.contract, Bool.and_eq_true] at h
  obtain ⟨hsink, -⟩ := h
  exact hsink

/-- STUB sends no extra payload (43_dispatch_boundary.md R123). -/
theorem stubAnswer_extra (p : Params) (cmd : Byte) : (stubAnswer p cmd).2 = [] := by
  unfold stubAnswer
  split
  · rfl
  · split <;> rfl

/-- The contract of 43_dispatch_boundary.md R120, for each DISPATCHER that can keep it. -/
theorem State.exists_answer_of_contract {s : State} (h : s.cfg.contract = true) (cmd : Byte) (payload : List Byte) :
    ∃ code extra, s.answer cmd payload = some (code, extra) ∧ extra.length ≤ s.cfg.maxAckExtra := by
  simp only [Params.contract, Bool.and_eq_true] at h
  obtain ⟨-, hdispatcher⟩ := h
  unfold State.answer
  cases hd : s.cfg.dispatcher <;> rw [hd] at hdispatcher
  case oracle => exact ⟨_, _, rfl, List.length_take_le _ _⟩
  case stub => exact ⟨_, [], congrArg some (Prod.ext rfl (stubAnswer_extra s.cfg cmd)), Nat.zero_le _⟩
  case fixed code extra => exact ⟨code, extra, rfl, of_decide_eq_true hdispatcher⟩
  case silent => cases hdispatcher

theorem respond_completes {s : State} (h : s.cfg.contract = true) (code : Byte) {extra : List Byte}
    (hx : extra.length ≤ s.cfg.maxAckExtra) : ∃ t, s.respond code extra = .next t :=
  ⟨_, State.respond_of_contract hx (Params.sink_returns_of_contract h)⟩

theorem dispatch_completes {s : State} (h : s.cfg.contract = true) (cmd : Byte) (payload : List Byte) :
    ∃ t, s.dispatch cmd payload = .next t := by
  obtain ⟨code, extra, hanswer, hx⟩ := State.exists_answer_of_contract h cmd payload
  exact ⟨_, State.dispatch_eq_next.mpr ⟨code, extra, hanswer, hx, Params.sink_returns_of_contract h, rfl⟩⟩

theorem completeFrame_completes {s : State} (h : s.cfg.contract = true) (hbuf : s.buf.filledTo s.n.toNat)
    (hn : 4 + s.len.toNat ≤ s.n.toNat) : ∃ t, completeFrame s = .next t := by
  obtain ⟨payload, hc | hc⟩ := completeFrame_of_filledTo hbuf hn
  · exact hc ▸ dispatch_completes h s.cmd payload
  · exact hc ▸ respond_completes h s.cfg.errInvalidFrame (Nat.zero_le _)

theorem andThen_reinit_completes {r : Result} (h : ∃ t, r = .next t) :
    ∃ t, andThen r (fun u => .next u.reinit) = .next t := by
  obtain ⟨t, rfl⟩ := h
  exact ⟨t.reinit, rfl⟩

/-- Only the two places that emit depend on the collaborators. -/
theorem feed_completes {s : State} (b : Byte) (h : s.Inv) (hcontract : s.cfg.contract = true) :
    ∃ t, feed b s = .next t := by
  have hroom := State.room_of_inv h
  cases hst : s.st with
  | waitStart =>
    by_cases hb : b = startMarker
    · exact hb ▸ ⟨_, feed_startMarker_of_waitStart hst⟩
    · exact ⟨_, feed_of_waitStart_of_ne hst hb⟩
  | waitLenLow => exact ⟨_, feed_of_waitLenLow hst hroom⟩
  | waitLenHigh =>
    obtain ⟨-, hbuf, hn, -⟩ := (State.inv_iff hst).mp h
    obtain ⟨lo, hlo⟩ := Memory.exists_read_of_filledTo hbuf (a := 1) (by simp [hn])
    by_cases hfit : lo.toNat + 256 * b.toNat ≤ s.cfg.capacity
    · exact ⟨_, feed_of_waitLenHigh_of_le hst hn hlo hfit⟩
    · rw [feed_of_waitLenHigh_of_lt hst hn hlo (Nat.lt_of_not_le hfit)]
      exact andThen_reinit_completes
        (respond_completes (s := { s.appended b with len := fromLe16 lo b }) hcontract _ (Nat.zero_le _))
  | waitCommand => exact ⟨_, feed_of_waitCommand hst hroom⟩
  | waitPayload => exact ⟨_, feed_of_waitPayload hst hroom⟩
  | waitChecksum =>
    obtain ⟨hcfg, hbuf, hn, -⟩ := (State.inv_iff hst).mp h
    have hn' := State.appended_n_toNat b hcfg hroom
    rw [feed_of_waitChecksum hst hroom]
    exact andThen_reinit_completes (completeFrame_completes (s := s.appended b) hcontract
      (State.filledTo_appended b hcfg hroom hbuf) (by simp only [State.appended_len]; omega))

/-- The invariant and the contract both outlast each byte, so any bytes can be fed. -/
theorem feedAll_completes (bs : List Byte) {s : State} (h : s.Inv) (hcontract : s.cfg.contract = true) :
    ∃ t, feedAll bs s = .next t ∧ t.Inv := by
  induction bs generalizing s with
  | nil => exact ⟨s, rfl, h⟩
  | cons b bs ih =>
    obtain ⟨u, hu⟩ := feed_completes b h hcontract
    have hcfg : u.cfg = s.cfg := keepsCfg_feed b s u hu
    obtain ⟨t, ht, hinv⟩ := ih ((feed_sound b h).inv u hu) (hcfg ▸ hcontract)
    exact ⟨t, andThen_eq_next.mpr ⟨u, hu, ht⟩, hinv⟩

/-- Settles O43 (holds): both frame rows are bytes fed in order (log 4). -/
theorem frameRowsComplete : Obligations.FrameRowsComplete := fun _ c bs h hcontract =>
  ⟨feedAll_completes (requestFrame c bs) (State.inv_returning .nothing h) hcontract,
    feedAll_completes (ackFrame c bs) (State.inv_returning .nothing h) hcontract⟩

end Sys2Proof.Machine
end

section
/-! O46: a length above BUFFER_CAPACITY is rejected at the third byte, and the rest of the frame is fed to an idle receiver
(30_encoding.md R49, 70_reset_and_hazards.md R167, R170). -/

namespace Sys2Proof.Machine

/-- The receiver after a start marker and a low length octet: see `feedAll_startMarker_lenLow`. -/
def State.lenHighDue (lo : Byte) (s : State) : State :=
  (((s.clear.appended startMarker).goto .waitLenLow).appended lo).goto .waitLenHigh

/-- The first two bytes of a frame in WaitStart (42_frame_receiver.md R98, R99). -/
theorem feedAll_startMarker_lenLow {s : State} (lo : Byte) (hst : s.st = .waitStart) :
    feedAll [startMarker, lo] s = .next (s.lenHighDue lo) := by
  have hroom : ((s.clear.appended startMarker).goto .waitLenLow).n.toNat <
      frameBufSize ((s.clear.appended startMarker).goto .waitLenLow).cfg := by
    simp [frameBufSize, frameOverhead]
  simp only [feedAll, feed_startMarker_of_waitStart hst, andThen_next]
  rw [feed_of_waitLenLow rfl hroom]
  rfl

/-- R22 gives back a receiver that was idle. -/
theorem State.reinit_of_idle {s : State} (h : s.receiverIdle) : s.reinit = s := by
  cases s
  obtain ⟨rfl, rfl, rfl, rfl, rfl, rfl⟩ := h
  rfl

/-- The rejection leaves an idle receiver as it was before the frame: nothing but TX has changed (30_encoding.md R49). -/
theorem feedAll_header_of_lt {s : State} {lo hi : Byte} (hidle : s.receiverIdle) (hsink : s.cfg.sink.returns = true)
    (hfull : s.cfg.capacity < lo.toNat + 256 * hi.toNat) :
    feedAll [startMarker, lo, hi] s = .next (s.sent (ackFrame s.cfg.errBufferFull [])) := by
  have hheader := feedAll_append [startMarker, lo] [hi] s
  rw [feedAll_startMarker_lenLow lo hidle.1, andThen_next, feedAll_singleton,
    feed_of_waitLenHigh_of_lt (s := s.lenHighDue lo) rfl rfl rfl hfull] at hheader
  refine hheader.trans (State.raiseResponse_eq_next.mpr ⟨Nat.zero_le _, hsink, ?_⟩)
  calc s.sent (ackFrame s.cfg.errBufferFull [])
    _ = s.reinit.sent (ackFrame s.cfg.errBufferFull []) := by rw [State.reinit_of_idle hidle]
    _ = _ := rfl

/-- Settles O46 (holds): the header declares the payload's length, and the row feeds the rest after the rejection. -/
theorem longRequestIsRejectedBySmallReceiver : Obligations.LongRequestIsRejectedBySmallReceiver := by
  intro s cmd payload hidle hsink hlong hmax
  have hfull : s.cfg.capacity <
      (BitVec.ofNat 8 payload.length : Byte).toNat + 256 * (BitVec.ofNat 8 (payload.length >>> 8) : Byte).toNat :=
    hlong.trans_eq (le16_join payload.length (Nat.lt_succ_of_le hmax)).symm
  refine ⟨requestFrame cmd payload, rfl, fun hle => if_neg (Nat.not_lt.mpr hle), ?_, ?_⟩
  · exact feedAll_header_of_lt hidle hsink hfull
  · have hfed := feedAll_append ((requestFrame cmd payload).take 3) ((requestFrame cmd payload).drop 3)
      (s.returning .nothing)
    rw [List.take_append_drop] at hfed
    have hreject := feedAll_header_of_lt (s := s.returning .nothing) hidle hsink hfull
    exact hfed.trans (congrArg (andThen · _) hreject)

end Sys2Proof.Machine
end

section
/-! O1 to O7: the checksum unit. A round is linear over exclusive or and injective; its iterates, CRC8_UPDATE and the fold over
a sequence are both as well (40_checksum.md R66 to R73). -/

namespace Sys2Proof.Machine

/-! ### One round, and eight of them -/

/-- The round of R66 in plain arithmetic, on the value of the accumulator. -/
def crc8RoundNat (x : Nat) : Nat := if x / 128 = 1 then (2 * x % 256) ^^^ 7 else 2 * x % 256

theorem getLsbD_seven_iff (c : Byte) : c.getLsbD 7 = true ↔ c.toNat / 128 = 1 := by
  have hc := c.isLt
  rw [← BitVec.testBit_toNat, Nat.testBit_eq_decide_div_mod_eq, decide_eq_true_iff]
  omega

theorem toNat_crc8Round (c : Byte) : (crc8Round c).toNat = crc8RoundNat c.toNat := by
  have hshift : (c <<< 1).toNat = 2 * c.toNat % 256 := by
    rw [BitVec.toNat_shiftLeft, Nat.shiftLeft_eq, Nat.mul_comm]
  by_cases h : c.getLsbD 7
  · rw [crc8Round, crc8RoundNat, if_pos h, if_pos ((getLsbD_seven_iff c).mp h), BitVec.toNat_xor, hshift]
    rfl
  · rw [crc8Round, crc8RoundNat, if_neg h, if_neg (mt (getLsbD_seven_iff c).mpr h), hshift]

/-- The shift drops bit 7, and the feedback is exclusive or with a constant exactly when bit 7 is set. -/
theorem crc8Round_xor (a b : Byte) : crc8Round (a ^^^ b) = crc8Round a ^^^ crc8Round b := by
  have hshift : (a ^^^ b) <<< 1 = a <<< 1 ^^^ b <<< 1 := BitVec.shiftLeft_xor_distrib a b 1
  rw [crc8Round, crc8Round, crc8Round, BitVec.getLsbD_xor, hshift]
  cases a.getLsbD 7 <;> cases b.getLsbD 7
  case false.false => rfl
  case false.true => exact BitVec.xor_assoc _ _ _
  case true.false =>
    show (a <<< 1 ^^^ b <<< 1) ^^^ crcPoly = (a <<< 1 ^^^ crcPoly) ^^^ b <<< 1
    ac_rfl
  case true.true =>
    calc a <<< 1 ^^^ b <<< 1
      _ = (a <<< 1 ^^^ b <<< 1) ^^^ (crcPoly ^^^ crcPoly) := by rw [BitVec.xor_self, BitVec.xor_zero]
      _ = (a <<< 1 ^^^ crcPoly) ^^^ (b <<< 1 ^^^ crcPoly) := by ac_rfl

/-- The constant term of the generator: what the round shifts out of bit 7 comes back in bit 0. -/
theorem crc8Round_getLsbD_zero (c : Byte) : (crc8Round c).getLsbD 0 = c.getLsbD 7 := by
  rw [crc8Round]
  cases c.getLsbD 7 <;> simp [crcPoly]

theorem eq_zero_of_crc8Round_eq_zero {c : Byte} (h : crc8Round c = 0#8) : c = 0#8 := by
  have hbit : c.getLsbD 7 = false := by rw [← crc8Round_getLsbD_zero, h]; rfl
  have htop : ¬ c.toNat / 128 = 1 := by rw [← getLsbD_seven_iff, hbit]; exact Bool.false_ne_true
  have hval : crc8RoundNat c.toNat = 0 := by rw [← toNat_crc8Round, h]; rfl
  rw [crc8RoundNat, if_neg htop] at hval
  have hc := c.isLt
  exact BitVec.eq_of_toNat_eq (show c.toNat = 0 by omega)

theorem crc8Round_injective : Function.Injective crc8Round := fun a b h =>
  BitVec.xor_eq_zero_iff.mp (eq_zero_of_crc8Round_eq_zero (by rw [crc8Round_xor, h, BitVec.xor_self]))

theorem crc8Rounds_eq_iterate (k : Nat) (c : Byte) : crc8Rounds k c = crc8Round^[k] c := by
  induction k generalizing c with
  | zero => rfl
  | succ k ih => exact ih (crc8Round c)

/-! ### CRC8_UPDATE -/

theorem crc8Update_eq_iterate (c b : Byte) : crc8Update c b = crc8Round^[8] (c ^^^ b) :=
  crc8Rounds_eq_iterate 8 (c ^^^ b)

theorem toNat_crc8Update (c b : Byte) : (crc8Update c b).toNat = crc8RoundNat^[8] (c ^^^ b).toNat := by
  rw [crc8Update_eq_iterate]
  exact Function.Semiconj.iterate_right toNat_crc8Round 8 (c ^^^ b)

/-- 40_checksum.md R73. -/
theorem crc8Update_xor (c d a b : Byte) : crc8Update (c ^^^ d) (a ^^^ b) = crc8Update c a ^^^ crc8Update d b := by
  have hlinear : Function.Semiconj₂ crc8Round^[8] (· ^^^ ·) (· ^^^ ·) :=
    Function.Semiconj₂.iterate crc8Round_xor 8
  have hswap : (c ^^^ d) ^^^ (a ^^^ b) = (c ^^^ a) ^^^ (d ^^^ b) := by ac_rfl
  rw [crc8Update_eq_iterate, crc8Update_eq_iterate, crc8Update_eq_iterate, hswap]
  exact hlinear _ _

/-- The corner case of R66 that the residue law rests on. -/
@[simp] theorem crc8Update_self (c : Byte) : crc8Update c c = 0#8 := by
  rw [crc8Update, BitVec.xor_self]
  rfl

theorem crc8Update_inj {a b c d : Byte} : crc8Update c a = crc8Update d b ↔ c ^^^ a = d ^^^ b := by
  rw [crc8Update_eq_iterate, crc8Update_eq_iterate]
  exact (crc8Round_injective.iterate 8).eq_iff

/-! ### The fold over a sequence -/

/-- No step loses the accumulator, so two that differ stay different whatever follows. -/
theorem crc8From_injective (bytes : List Byte) : Function.Injective (crc8From · bytes) := by
  induction bytes with
  | nil => exact fun _ _ h => h
  | cons b bs ih => exact fun _ _ h => (BitVec.xor_left_inj b).mp (crc8Update_inj.mp (ih h))

theorem crc8From_zipWith_xor (c d : Byte) {xs ys : List Byte} (h : xs.length = ys.length) :
    crc8From (c ^^^ d) (List.zipWith (fun x y => x ^^^ y) xs ys) = crc8From c xs ^^^ crc8From d ys := by
  induction xs generalizing c d ys with
  | nil =>
    cases ys with
    | nil => rfl
    | cons y ys => cases h
  | cons x xs ih =>
    cases ys with
    | nil => cases h
    | cons y ys =>
      rw [List.zipWith_cons_cons, crc8From_cons, crc8From_cons, crc8From_cons, crc8Update_xor]
      exact ih (crc8Update c x) (crc8Update d y) (Nat.succ.inj h)

theorem crc8_append (xs ys : List Byte) : crc8 (xs ++ ys) = crc8From (crc8 xs) ys :=
  crc8From_append crcInit xs ys

/-- The sequences agree up to the changed byte, differ in the accumulator there, and so differ to the end. -/
theorem crc8_append_cons_ne {b d : Byte} (xs ys : List Byte) (h : b ≠ d) :
    crc8 (xs ++ b :: ys) ≠ crc8 (xs ++ d :: ys) := by
  rw [crc8_append, crc8_append, crc8From_cons, crc8From_cons]
  intro heq
  exact h ((BitVec.xor_right_inj _).mp (crc8Update_inj.mp (crc8From_injective ys heq)))

theorem exec_crc8Update (c b : Byte) (s : State) :
    exec (.crc8Update c b) s = .next { s with ret := .byte (crc8Update c b) } := rfl

theorem exec_crc8 (bytes : List Byte) (s : State) : exec (.crc8 bytes) s = .next { s with ret := .byte (crc8 bytes) } := rfl

/-! ### The statements -/

/-- Settles O1 (holds): each round is `crc8RoundNat` on the value, and so are eight. -/
theorem crc8UpdateRunsEightRounds : Obligations.Crc8UpdateRunsEightRounds := fun c b s =>
  ⟨crc8Update c b, exec_crc8Update c b s, toNat_crc8Update c b⟩

/-- Settles O2 (holds): the checksum is that fold from CRC_INIT. -/
theorem crc8FoldsUpdateFromZero : Obligations.Crc8FoldsUpdateFromZero := fun bytes s =>
  ⟨exec_crc8 bytes s, exec_crc8 [] s⟩

/-- Settles O3 (holds): the nine bytes of the self-test vector, computed. -/
theorem crc8OfReferenceStringIsF4 : Obligations.Crc8OfReferenceStringIsF4 := by
  intro s
  have hvalue : crc8 [0x31#8, 0x32#8, 0x33#8, 0x34#8, 0x35#8, 0x36#8, 0x37#8, 0x38#8, 0x39#8] = 0xF4#8 := by
    decide +kernel
  rw [exec_crc8, hvalue]

/-- Settles O4 (holds): the last step takes the accumulator itself. -/
theorem crc8ResidueIsZero : Obligations.Crc8ResidueIsZero := by
  intro bs s
  rw [exec_crc8, crc8_append, crc8From_cons, crc8Update_self, crc8From_nil]

/-- Settles O5 (holds): a fold over a concatenation goes on from the first part's result, and it is injective. -/
theorem crc8StreamsOverConcatenation : Obligations.Crc8StreamsOverConcatenation := by
  intro xs ys s
  refine ⟨?_, fun c d h => crc8From_injective ys h⟩
  rw [exec_crc8, crc8_append]
  rfl

/-- Settles O6 (holds): linearity of the step carries over to the fold; a zero byte leaves the initial accumulator zero. -/
theorem crc8IsLinear : Obligations.Crc8IsLinear :=
  ⟨crc8Update_xor, fun _ _ h => crc8From_zipWith_xor crcInit crcInit h,
    fun xs => congrArg (crc8From · xs) (crc8Update_self 0#8)⟩

/-- Settles O7 (holds): the injectivity of the fold keeps the two accumulators apart. -/
theorem crc8DetectsOneChangedByte : Obligations.Crc8DetectsOneChangedByte := fun xs ys _ _ s h =>
  ⟨_, _, exec_crc8 _ s, exec_crc8 _ s, crc8_append_cons_ne xs ys h⟩

end Sys2Proof.Machine
end

section
/-! O8, O9, O12 to O16: the frame codec. The encoders build `frameBytes`; by the residue law a verdict is valid exactly when the
buffer after byte 0 checksums to 0; a valid buffer that opens with the start marker is a `frameBytes` again (41_frame_codec.md
R76 to R86). -/

namespace Sys2Proof.Machine

/-! ### What the codec operations hand back -/

theorem exec_encodeFrame (cmd : Byte) (payload : List Byte) (s : State) :
    exec (.encodeFrame cmd payload) s = .next { s with ret := .encoded (encodeFrame cmd payload) } := rfl

theorem exec_encodeAck (code : Byte) (extra : List Byte) (s : State) :
    exec (.encodeAck code extra) s = .next { s with ret := .encoded (encodeAck s.cfg.maxAckExtra code extra) } := rfl

theorem exec_verifyFrameCrc (buffer : List Byte) (s : State) :
    exec (.verifyFrameCrc buffer) s = .next { s with ret := .verdict (verifyFrameCrc buffer) } := rfl

theorem exec_decodeFrame (buffer : List Byte) (s : State) :
    exec (.decodeFrame buffer) s = .next { s with ret := .decoded (decodeFrame buffer) } := rfl

/-- Two states that differ at most in what was handed back are the same exactly when that is. -/
theorem State.next_with_ret_inj {s : State} {a b : Ret} :
    (.next { s with ret := a } : Result) = .next { s with ret := b } ↔ a = b :=
  ⟨fun h => congrArg State.ret (Host.Outcome.next.inj h), fun h => h ▸ rfl⟩

theorem exec_encodeFrame_eq_iff {cmd : Byte} {payload : List Byte} {s : State} {r : EncodeResult} :
    exec (.encodeFrame cmd payload) s = .next { s with ret := .encoded r } ↔ encodeFrame cmd payload = r := by
  rw [exec_encodeFrame, State.next_with_ret_inj, Ret.encoded.injEq]

theorem exec_decodeFrame_eq_iff {buffer : List Byte} {s : State} {r : DecodeResult} :
    exec (.decodeFrame buffer) s = .next { s with ret := .decoded r } ↔ decodeFrame buffer = r := by
  rw [exec_decodeFrame, State.next_with_ret_inj, Ret.decoded.injEq]

/-! ### The encoders -/

theorem encodeFrame_of_le {payload : List Byte} (cmd : Byte) (h : payload.length ≤ maxPayload) :
    encodeFrame cmd payload = .ok (requestFrame cmd payload) :=
  if_neg (Nat.not_lt.mpr h)

theorem encodeFrame_of_lt {payload : List Byte} (cmd : Byte) (h : maxPayload < payload.length) :
    encodeFrame cmd payload = .fail :=
  if_pos h

theorem encodeFrame_eq_ok_iff {cmd : Byte} {payload f : List Byte} :
    encodeFrame cmd payload = .ok f ↔ payload.length ≤ maxPayload ∧ requestFrame cmd payload = f := by
  rcases Nat.lt_or_ge maxPayload payload.length with h | h
  · simp [encodeFrame_of_lt cmd h, h]
  · simp [encodeFrame_of_le cmd h, h]

theorem eq_ackFrame_of_encodeAck {maxExtra : Nat} {code : Byte} {extra f : List Byte}
    (h : encodeAck maxExtra code extra = .ok f) : f = ackFrame code extra := by
  rcases Nat.lt_or_ge maxExtra extra.length with hlen | hlen
  · rw [encodeAck_of_lt code hlen] at h; cases h
  · rw [encodeAck_of_le code hlen] at h; cases h; rfl

/-- The length octets as remainder and quotient by 256. -/
theorem le16_eq (n : Nat) : le16 n = [BitVec.ofNat 8 (n % 256), BitVec.ofNat 8 (n / 256)] := by
  have hlow : (BitVec.ofNat 8 n : Byte) = BitVec.ofNat 8 (n % 256) := BitVec.eq_of_toNat_eq (by simp)
  rw [le16, hlow, Nat.shiftRight_eq_div_pow]

/-- Joining two octets and splitting the number again gives them back (41_frame_codec.md R87). -/
theorem le16_of_octets (lo hi : Byte) : le16 (lo.toNat + 256 * hi.toNat) = [lo, hi] := by
  have hlo := lo.isLt
  rw [le16_eq, show (lo.toNat + 256 * hi.toNat) % 256 = lo.toNat by omega,
    show (lo.toNat + 256 * hi.toNat) / 256 = hi.toNat by omega, BitVec.ofNat_toNat, BitVec.ofNat_toNat]
  rfl

/-- The frame as the pseudocode of R76 and R79 composes it. -/
theorem frameBytes_eq_append (n : Nat) (code : Byte) (rest : List Byte) :
    frameBytes n code rest =
      [0xA5#8] ++ ([BitVec.ofNat 8 (n % 256), BitVec.ofNat 8 (n / 256), code] ++ rest) ++
        [crc8 ([BitVec.ofNat 8 (n % 256), BitVec.ofNat 8 (n / 256), code] ++ rest)] := by
  rw [frameBytes, frameBody, le16_eq]
  rfl

/-- Settles O8 (holds): the two branches of the encoder, the frame written out by `frameBytes_eq_append`. -/
theorem encodeFrameBuildsRequestOrFails : Obligations.EncodeFrameBuildsRequestOrFails := by
  intro cmd payload s
  refine ⟨fun hle => ?_, fun hlt => ?_⟩
  · rw [exec_encodeFrame, encodeFrame_of_le cmd hle, requestFrame, frameBytes_eq_append]
  · rw [exec_encodeFrame, encodeFrame_of_lt cmd hlt]

/-- Settles O9 (holds): the same with a length field that counts the error code. -/
theorem encodeAckBuildsAcknowledgementOrFails : Obligations.EncodeAckBuildsAcknowledgementOrFails := by
  intro code extra s _
  refine ⟨fun hle => ?_, fun hlt => ?_⟩
  · rw [exec_encodeAck, encodeAck_of_le code hle, ackFrame, frameBytes_eq_append, ackLenBias]
  · rw [exec_encodeAck, encodeAck_of_lt code hlt]

/-! ### VERIFY_FRAME_CRC -/

/-- A checksum put last, and no other byte, brings the accumulator to 0 (40_checksum.md R72). -/
theorem crc8_append_singleton_eq_zero_iff (xs : List Byte) (k : Byte) : crc8 (xs ++ [k]) = 0#8 ↔ crc8 xs = k := by
  rw [crc8_append, crc8From_cons, crc8From_nil, ← crc8Update_self 0#8, crc8Update_inj, BitVec.xor_self]
  exact BitVec.xor_eq_zero_iff

/-- The verdict as a residue: byte 0 is not examined, the bytes after it are at least four and checksum to 0. -/
theorem verifyFrameCrc_cons_eq_true_iff (a : Byte) (rest : List Byte) :
    verifyFrameCrc (a :: rest) = true ↔ 4 ≤ rest.length ∧ crc8 rest = 0#8 := by
  rcases List.eq_nil_or_concat' rest with rfl | ⟨span, k, rfl⟩
  · simp [verifyFrameCrc, minFrame]
  · simp [verifyFrameCrc_split, crc8_append_singleton_eq_zero_iff]

theorem verifyFrameCrc_eq_true_iff (buffer : List Byte) :
    verifyFrameCrc buffer = true ↔
      ∃ (first : Byte) (span : List Byte), buffer = first :: (span ++ [crc8 span]) ∧ 3 ≤ span.length := by
  refine ⟨fun h => ?_, ?_⟩
  · cases buffer with
    | nil => cases h
    | cons first rest =>
      obtain ⟨hlen, hzero⟩ := (verifyFrameCrc_cons_eq_true_iff first rest).mp h
      rcases List.eq_nil_or_concat' rest with rfl | ⟨span, k, rfl⟩
      · cases hlen
      · rw [crc8_append_singleton_eq_zero_iff] at hzero
        exact ⟨first, span, by rw [hzero], by simpa using hlen⟩
  · rintro ⟨first, span, rfl, hlen⟩
    simp [verifyFrameCrc_split, hlen]

/-- Settles O12 (holds). -/
theorem verifyFrameCrcJudgesBuffer : Obligations.VerifyFrameCrcJudgesBuffer := fun buffer s =>
  ⟨verifyFrameCrc buffer, exec_verifyFrameCrc buffer s, verifyFrameCrc_eq_true_iff buffer⟩

/-- Settles O13 (holds): both encoders answer a `frameBytes`, and the residue leaves byte 0 out. -/
theorem encodedFramesVerify : Obligations.EncodedFramesVerify := by
  refine ⟨fun cmd payload f h => ?_, fun maxExtra code extra f h => ?_, fun a b d rest => ?_⟩
  · obtain ⟨-, rfl⟩ := encodeFrame_eq_ok_iff.mp h
    exact verifyFrameCrc_frameBytes _ _ _
  · rw [eq_ackFrame_of_encodeAck h]
    exact verifyFrameCrc_frameBytes _ _ _
  · rw [Bool.eq_iff_iff, verifyFrameCrc_cons_eq_true_iff, verifyFrameCrc_cons_eq_true_iff]

/-- Settles O14 (holds): two sequences that differ in one byte do not both checksum to 0. -/
theorem verifyRejectsOneDamagedByte : Obligations.VerifyRejectsOneDamagedByte := by
  intro xs ys b d s hxs hbd hvalid
  obtain ⟨a, xs, rfl⟩ := List.exists_cons_of_ne_nil hxs
  have hdamaged : ¬ verifyFrameCrc (a :: (xs ++ d :: ys)) = true := by
    intro hd
    obtain ⟨-, hzero⟩ := (verifyFrameCrc_cons_eq_true_iff a (xs ++ b :: ys)).mp hvalid
    obtain ⟨-, hzero'⟩ := (verifyFrameCrc_cons_eq_true_iff a (xs ++ d :: ys)).mp hd
    exact crc8_append_cons_ne xs ys hbd (hzero.trans hzero'.symm)
  rw [exec_verifyFrameCrc, List.cons_append, Bool.eq_false_of_not_eq_true hdamaged]

/-! ### DECODE_FRAME -/

theorem getElem?_eq_some_iff_byteAt {s : List Byte} {i : Nat} (hi : i < s.length) (b : Byte) :
    s[i]? = some b ↔ byteAt s i = b := by
  simp [byteAt, hi]

/-- The result is ok exactly behind the five tests (41_frame_codec.md R85). -/
theorem decodeFrame_eq_ok_iff {buffer : List Byte} {cmd : Byte} {payload : List Byte} :
    decodeFrame buffer = .ok cmd payload ↔
      minFrame ≤ buffer.length ∧ byteAt buffer 0 = startMarker ∧ lengthField buffer ≤ maxPayload ∧
      buffer.length = 5 + lengthField buffer ∧ verifyFrameCrc buffer = true ∧
      byteAt buffer 3 = cmd ∧ slice buffer 4 (lengthField buffer) = payload := by
  unfold decodeFrame
  split
  case isTrue hshort => simp [hshort]
  case isFalse hlong =>
  split
  case isTrue hstart => simp [hstart]
  case isFalse hstart =>
  split
  case isTrue hover => simp [hover]
  case isFalse hfits =>
  split
  case isTrue hsize => simp [hsize]
  case isFalse hsize =>
  split
  case isFalse hcrc => simp [hcrc]
  case isTrue hcrc =>
    simp [not_lt.mp hlong, not_not.mp hstart, not_lt.mp hfits, ← not_not.mp hsize, hcrc]

/-- Settles O15 (holds): the five tests, with the length field read as its two octets. -/
theorem decodeFrameTakesRequestApart : Obligations.DecodeFrameTakesRequestApart := by
  intro buffer s
  refine ⟨decodeFrame buffer, exec_decodeFrame buffer s, fun cmd payload => ?_⟩
  have hfield : lengthField buffer = (byteAt buffer 1).toNat + 256 * (byteAt buffer 2).toNat := fromLe16_toNat _ _
  rw [decodeFrame_eq_ok_iff, hfield]
  constructor
  · rintro ⟨hlen, hstart, hfits, hsize, hcrc, hcmd, hslice⟩
    have h5 : 5 ≤ buffer.length := hlen
    exact ⟨byteAt buffer 1, byteAt buffer 2, h5,
      (getElem?_eq_some_iff_byteAt (by omega) _).mpr hstart,
      (getElem?_eq_some_iff_byteAt (by omega) _).mpr rfl,
      (getElem?_eq_some_iff_byteAt (by omega) _).mpr rfl, hfits, hsize, hcrc,
      (getElem?_eq_some_iff_byteAt (by omega) _).mpr hcmd, hslice.symm⟩
  · rintro ⟨lo, hi, h5, hstart, hlo, hhi, hfits, hsize, hcrc, hcmd, hslice⟩
    rw [getElem?_eq_some_iff_byteAt (by omega)] at hstart hlo hhi hcmd
    subst hlo hhi
    exact ⟨h5, hstart, hfits, hsize, hcrc, hcmd, hslice.symm⟩

/-- A valid buffer that opens with the start marker has the form an encoder builds, with some length field. -/
theorem exists_eq_frameBytes_of_verifyFrameCrc {buffer : List Byte} (hstart : byteAt buffer 0 = startMarker)
    (hcrc : verifyFrameCrc buffer = true) :
    ∃ (n : Nat) (code : Byte) (rest : List Byte), n < 65536 ∧ buffer = frameBytes n code rest := by
  obtain ⟨first, span, rfl, hlen⟩ := (verifyFrameCrc_eq_true_iff buffer).mp hcrc
  obtain rfl : first = startMarker := hstart
  match span, hlen with
  | lo :: hi :: code :: rest, _ =>
    have hlo := lo.isLt
    have hhi := hi.isLt
    refine ⟨lo.toNat + 256 * hi.toNat, code, rest, by omega, ?_⟩
    rw [frameBytes, frameBody, le16_of_octets]
    rfl

/-- Decoding inverts encoding from the right: what DECODE_FRAME accepts is the request frame of its result. -/
theorem eq_requestFrame_of_decodeFrame {cmd : Byte} {payload f : List Byte} (h : decodeFrame f = .ok cmd payload) :
    payload.length ≤ maxPayload ∧ requestFrame cmd payload = f := by
  obtain ⟨-, hstart, hfits, hsize, hcrc, hcmd, hslice⟩ := decodeFrame_eq_ok_iff.mp h
  obtain ⟨n, code, rest, hn, rfl⟩ := exists_eq_frameBytes_of_verifyFrameCrc hstart hcrc
  rw [lengthField_frameBytes hn] at hfits hsize hslice
  rw [length_frameBytes] at hsize
  obtain rfl : n = rest.length := by omega
  rw [byteAt_frameBytes_three] at hcmd
  rw [slice_frameBytes] at hslice
  subst hcmd hslice
  exact ⟨hfits, rfl⟩

/-- 41_frame_codec.md R86. -/
theorem encodeFrame_eq_ok_iff_decodeFrame_eq_ok {cmd : Byte} {payload f : List Byte} :
    encodeFrame cmd payload = .ok f ↔ decodeFrame f = .ok cmd payload := by
  rw [encodeFrame_eq_ok_iff]
  constructor
  · rintro ⟨hle, rfl⟩
    exact decodeFrame_requestFrame cmd hle
  · exact eq_requestFrame_of_decodeFrame

/-- Settles O16 (holds): decoding inverts encoding from both sides, and the bound on the payload decides which answer
the encoder gives. -/
theorem decodeFrameInvertsEncodeFrame : Obligations.DecodeFrameInvertsEncodeFrame := by
  intro cmd payload s
  refine ⟨fun f => ?_, fun hle => ?_, fun hlt => ?_⟩
  · rw [exec_encodeFrame_eq_iff, exec_decodeFrame_eq_iff, encodeFrame_eq_ok_iff_decodeFrame_eq_ok]
  · exact ⟨requestFrame cmd payload, exec_encodeFrame_eq_iff.mpr (encodeFrame_of_le cmd hle)⟩
  · exact exec_encodeFrame_eq_iff.mpr (encodeFrame_of_lt cmd hlt)

end Sys2Proof.Machine
end

section
/-! O28, O21 to O26: each transition row as the FEED_BYTE of its byte, and what that answers (42_frame_receiver.md
R96 to R103). -/

namespace Sys2Proof.Machine

/-! ### The selected row -/

/-- The selection in WaitStart (42_frame_receiver.md R97, R98). -/
theorem State.decodeByte_of_waitStart {s : State} (b : Byte) (hst : s.st = .waitStart) :
    s.decodeByte b = some (if b = startMarker then .rxStart else .rxDiscard b) := by
  simp [State.decodeByte, hst, selectTransition, isStart]

/-- The selection in WaitLenLow (42_frame_receiver.md R99). -/
theorem State.decodeByte_of_waitLenLow {s : State} (b : Byte) (hst : s.st = .waitLenLow) :
    s.decodeByte b = some (.rxLenLo b) := by
  simp [State.decodeByte, hst, selectTransition]

/-- The selection in WaitLenHigh: by the length the two octets declare (42_frame_receiver.md R100). -/
theorem State.decodeByte_of_waitLenHigh {s : State} {lo : Byte} (b : Byte) (hst : s.st = .waitLenHigh)
    (hlo : s.buf.read 1 = some lo) :
    s.decodeByte b = some (if lo.toNat + 256 * b.toNat ≤ s.cfg.capacity then .rxLenHi b else .rxLenHiFull b) := by
  simp only [State.decodeByte, hst, hlo, selectTransition, lengthFits_iff]

/-- The selection in WaitCommand (42_frame_receiver.md R102). -/
theorem State.decodeByte_of_waitCommand {s : State} (b : Byte) (hst : s.st = .waitCommand) :
    s.decodeByte b = some (if s.len = 0#16 then .rxCmdEmpty b else .rxCmd b) := by
  simp only [State.decodeByte, hst, selectTransition, payloadEmpty_iff]

/-- The selection in WaitPayload (42_frame_receiver.md R103). -/
theorem State.decodeByte_of_waitPayload {s : State} (b : Byte) (hst : s.st = .waitPayload) :
    s.decodeByte b = some (if s.cur + 1#16 = s.len then .rxPayloadLast b else .rxPayload b) := by
  simp only [State.decodeByte, hst, selectTransition, lastPayloadByte_iff]

/-- The selection in WaitChecksum (42_frame_receiver.md R104). -/
theorem State.decodeByte_of_waitChecksum {s : State} (b : Byte) (hst : s.st = .waitChecksum) :
    s.decodeByte b = some (.rxCrc b) := by
  simp [State.decodeByte, hst, selectTransition]

/-- The row a byte selects is a transition row that takes this byte. -/
theorem exists_rowRule_selectTransition (st : RxState) (fits : Bool) (len cur : Half) (b : Byte) :
    ∃ rule, rowRule (selectTransition st fits len cur b) = some (b, rule) := by
  cases st <;> simp only [selectTransition]
  case waitStart =>
    split
    · rename_i hb
      exact ⟨openFrame, by rw [beq_iff_eq.mp hb]; rfl⟩
    · exact ⟨_, rfl⟩
  case waitLenLow | waitChecksum => exact ⟨_, rfl⟩
  case waitLenHigh | waitCommand | waitPayload => split <;> exact ⟨_, rfl⟩

theorem exists_rowRule_of_decodeByte {s : State} {b : Byte} {i : Instr} (h : s.decodeByte b = some i) :
    ∃ rule, rowRule i = some (b, rule) := by
  unfold State.decodeByte at h
  split at h
  · split at h
    · cases h
      exact exists_rowRule_selectTransition ..
    · cases h
  · cases h
    exact exists_rowRule_selectTransition ..

/-- The selected row as an instruction of its own is the FEED_BYTE of its byte (30_encoding.md R61; log 3). -/
theorem exec_selected {s : State} {b : Byte} {i : Instr} (hn : s.st = .waitLenHigh → s.n = 2#16)
    (hsel : s.decodeByte b = some i) : exec i s = exec (.feedByte b) s := by
  obtain ⟨rule, hrow⟩ := exists_rowRule_of_decodeByte hsel
  rw [exec_of_rowRule hrow, whenSelected, if_pos hsel]
  exact rule_eq_feed (s := s.returning .nothing) hn hsel hrow

/-- R24's line for WaitLenHigh: the fill count, and a low length octet in the buffer. -/
theorem State.lenHigh_of_inv {s : State} (h : s.Inv) (hst : s.st = .waitLenHigh) :
    s.n = 2#16 ∧ ∃ lo, s.buf.read 1 = some lo := by
  obtain ⟨-, hbuf, hn, -⟩ := (State.inv_iff hst).mp h
  exact ⟨hn, Memory.exists_read_of_filledTo hbuf (by simp [hn])⟩

theorem State.exists_decodeByte_of_inv {s : State} (h : s.Inv) (b : Byte) : ∃ i, s.decodeByte b = some i := by
  cases hst : s.st with
  | waitStart => exact ⟨_, State.decodeByte_of_waitStart b hst⟩
  | waitLenLow => exact ⟨_, State.decodeByte_of_waitLenLow b hst⟩
  | waitLenHigh =>
    obtain ⟨-, lo, hlo⟩ := State.lenHigh_of_inv h hst
    exact ⟨_, State.decodeByte_of_waitLenHigh b hst hlo⟩
  | waitCommand => exact ⟨_, State.decodeByte_of_waitCommand b hst⟩
  | waitPayload => exact ⟨_, State.decodeByte_of_waitPayload b hst⟩
  | waitChecksum => exact ⟨_, State.decodeByte_of_waitChecksum b hst⟩

/-- Settles O28 (holds): a row is selected in every sound state, and `exec_selected` says what it performs. -/
theorem feedByteRunsTheSelectedTransition : Obligations.FeedByteRunsTheSelectedTransition := by
  intro s b h
  obtain ⟨i, hsel⟩ := State.exists_decodeByte_of_inv h b
  have hrow : ∀ {j}, s.decodeByte b = some j → i = j := fun hj => Option.some.inj (hsel.symm.trans hj)
  refine ⟨i, hsel, (exec_selected (fun hst => (State.lenHigh_of_inv h hst).1) hsel).symm,
    fun hst => hrow (State.decodeByte_of_waitStart b hst), fun hst => hrow (State.decodeByte_of_waitLenLow b hst),
    fun hst => ?_, fun hst => ?_, fun hst => ?_, fun hst => hrow (State.decodeByte_of_waitChecksum b hst)⟩
  · obtain ⟨-, lo, hlo⟩ := State.lenHigh_of_inv h hst
    exact hrow (State.decodeByte_of_waitLenHigh b hst hlo) ▸ ite_eq_or_eq ..
  · exact hrow (State.decodeByte_of_waitCommand b hst) ▸ (ite_eq_or_eq ..).symm
  · exact hrow (State.decodeByte_of_waitPayload b hst) ▸ (ite_eq_or_eq ..).symm

/-! ### WaitStart and WaitLenLow -/

/-- Settles O21 (holds): R97 does nothing, and the byte selects RX.DISCARD. -/
theorem discardChangesNothing : Obligations.DiscardChangesNothing := by
  intro s b hst hb
  have hfeed : exec (.feedByte b) s = .next { s with ret := .nothing } :=
    feed_of_waitStart_of_ne (s := s.returning .nothing) hst hb
  have hsel := State.decodeByte_of_waitStart b hst
  rw [if_neg (show b ≠ startMarker from hb)] at hsel
  exact ⟨hfeed, (exec_selected (by simp [hst]) hsel).trans hfeed⟩

/-- Settles O22 (holds): R98 appends the marker to the cleared buffer, whatever it held. -/
theorem startMarkerOpensFrame : Obligations.StartMarkerOpensFrame := by
  intro s hst
  have hfeed : exec (.feedByte 0xA5#8) s =
      .next { s with st := .waitLenLow, buf := [(0, 0xA5#8)], n := 1#16, ret := .nothing } :=
    feed_startMarker_of_waitStart (s := s.returning .nothing) hst
  have hsel : s.decodeByte startMarker = some .rxStart := State.decodeByte_of_waitStart startMarker hst
  exact ⟨hfeed, (exec_selected (by simp [hst]) hsel).trans hfeed⟩

/-- Settles O23 (holds): R99 appends the byte. -/
theorem lengthLowOctetIsAppended : Obligations.LengthLowOctetIsAppended := by
  intro s b hst hroom
  have hfeed : exec (.feedByte b) s =
      .next { s with st := .waitLenHigh, buf := s.buf.write s.n.toNat b, n := s.n + 1#16, ret := .nothing } :=
    feed_of_waitLenLow (s := s.returning .nothing) hst hroom
  have hsel := State.decodeByte_of_waitLenLow b hst
  exact ⟨hfeed, (exec_selected (by simp [hst]) hsel).trans hfeed⟩

/-! ### WaitLenHigh, WaitCommand and WaitPayload -/

/-- R100's rejection with a SINK that returns: the receiver is re-initialised and one response is sent. -/
theorem feed_of_waitLenHigh_of_lt_of_returns {s : State} {lo b : Byte} (hst : s.st = .waitLenHigh) (hn : s.n = 2#16)
    (hlo : s.buf.read 1 = some lo) (hfull : s.cfg.capacity < lo.toNat + 256 * b.toNat)
    (hsink : s.cfg.sink.returns = true) : feed b s = .next (s.reinit.sent (ackFrame s.cfg.errBufferFull [])) := by
  rw [feed_of_waitLenHigh_of_lt hst hn hlo hfull]
  exact State.raiseResponse_eq_next.mpr ⟨Nat.zero_le _, hsink, rfl⟩

/-- Settles O24 (holds): the rows RX.LEN_HI and RX.LEN_HI.FULL are selected by the comparison that R100 makes. -/
theorem lengthHighOctetAcceptsOrRejects : Obligations.LengthHighOctetAcceptsOrRejects := by
  intro s lo b hst hn hlo
  have hsel := State.decodeByte_of_waitLenHigh b hst hlo
  refine ⟨fun hfit => ?_, fun hfull hsink => ?_⟩
  · have hfeed : exec (.feedByte b) s = .next { s with
        st := .waitCommand, buf := s.buf.write 2 b, n := 3#16, len := fromLe16 lo b, ret := .nothing } := by
      have hstep := feed_of_waitLenHigh_of_le (s := s.returning .nothing) hst hn hlo hfit
      have hbuf : s.buf.write s.n.toNat b = s.buf.write 2 b := by rw [hn]; rfl
      have hcount : s.n + 1#16 = 3#16 := by rw [hn]; rfl
      rw [← hbuf, ← hcount]
      exact hstep
    rw [if_pos hfit] at hsel
    exact ⟨fromLe16 lo b, fromLe16_toNat lo b, hfeed, (exec_selected (fun _ => hn) hsel).trans hfeed⟩
  · have hfeed : exec (.feedByte b) s = .next { s with
        st := .waitStart, buf := [], n := 0#16, len := 0#16, cmd := 0#8, cur := 0#16, ret := .nothing,
        tx := s.tx ++ [s.writeOf (ackFrame s.cfg.errBufferFull [])] } :=
      feed_of_waitLenHigh_of_lt_of_returns (s := s.returning .nothing) hst hn hlo hfull hsink
    rw [if_neg (Nat.not_le.mpr hfull)] at hsel
    exact ⟨hfeed, (exec_selected (fun _ => hn) hsel).trans hfeed⟩

/-- Settles O25 (holds): the rows RX.CMD and RX.CMD.EMPTY are selected by the length that R102 tests. -/
theorem commandByteIsStored : Obligations.CommandByteIsStored := by
  intro s b hst hroom
  have hfeed := exec_feedByte_of_waitCommand b hst hroom
  have hsel := State.decodeByte_of_waitCommand b hst
  refine ⟨hfeed, fun hempty => ?_, fun hlen => ?_⟩
  · rw [if_pos hempty] at hsel
    rw [exec_selected (by simp [hst]) hsel, hfeed, if_pos hempty]
  · rw [if_neg hlen] at hsel
    rw [exec_selected (by simp [hst]) hsel, hfeed, if_neg hlen]

/-- FEED_BYTE in WaitPayload with room in the buffer (42_frame_receiver.md R103). -/
theorem exec_feedByte_of_waitPayload {s : State} (b : Byte) (hst : s.st = .waitPayload)
    (hroom : s.n.toNat < frameBufSize s.cfg) :
    exec (.feedByte b) s =
      .next { s with
        st := if s.cur + 1#16 = s.len then .waitChecksum else .waitPayload
        buf := s.buf.write s.n.toNat b, n := s.n + 1#16, cur := s.cur + 1#16, ret := .nothing } := by
  refine (feed_of_waitPayload (s := s.returning .nothing) hst hroom).trans ?_
  by_cases hlast : s.cur + 1#16 = s.len
  · rw [if_pos hlast]
    exact congrArg Host.Outcome.next (if_pos hlast)
  · rw [if_neg hlast, ← hst]
    exact congrArg Host.Outcome.next (if_neg hlast)

/-- Settles O26 (holds): the rows RX.PAYLOAD and RX.PAYLOAD.LAST are selected by the cursor that R103 tests. -/
theorem payloadByteIsStored : Obligations.PayloadByteIsStored := by
  intro s b hst hroom
  have hfeed := exec_feedByte_of_waitPayload b hst hroom
  have hsel := State.decodeByte_of_waitPayload b hst
  refine ⟨hfeed, fun hlast => ?_, fun hmore => ?_⟩
  · rw [if_pos hlast] at hsel
    rw [exec_selected (by simp [hst]) hsel, hfeed, if_pos hlast]
  · rw [if_neg hmore] at hsel
    rw [exec_selected (by simp [hst]) hsel, hfeed, if_neg hmore]

end Sys2Proof.Machine
end

section
/-! O27, O38: the byte that completes a frame, with collaborators that answer and with collaborators that do not
(42_frame_receiver.md R104, R108; 93_implementation_defined.md U4, U6). -/

namespace Sys2Proof.Machine

/-- A range read of the whole buffer gives a range read of its end. -/
theorem Memory.readRange_drop {m : Memory} {bs : List Byte} (a : Nat) (h : m.readRange 0 bs.length = some bs) :
    m.readRange a (bs.drop a).length = some (bs.drop a) := by
  rw [Memory.readRange_eq_some] at h ⊢
  intro i hi
  rw [List.length_drop] at hi
  rw [List.getElem?_drop, ← h (a + i) (by omega), Nat.zero_add]

theorem Memory.readRange_append_left {m : Memory} {a : Nat} {bs cs : List Byte}
    (h : m.readRange a (bs ++ cs).length = some (bs ++ cs)) : m.readRange a bs.length = some bs := by
  rw [Memory.readRange_eq_some] at h ⊢
  intro i hi
  rw [h i (by rw [List.length_append]; omega), List.getElem?_append_left hi]

/-- R108, the checksum is wrong. -/
theorem completeFrame_of_invalid {s : State} {frame : List Byte} (hbuf : s.buffers frame)
    (hcrc : verifyFrameCrc frame = false) : completeFrame s = s.respond s.cfg.errInvalidFrame [] := by
  obtain ⟨hn, hread⟩ := hbuf
  simp [completeFrame, hn, hread, hcrc]

/-- R108, the checksum is right: what stands between the command and the checksum is dispatched. -/
theorem completeFrame_of_valid {s : State} {frame : List Byte} {k : Byte} (hbuf : s.buffers (frame ++ [k]))
    (hcrc : verifyFrameCrc (frame ++ [k]) = true) (hlen : frame.length = 4 + s.len.toNat) :
    completeFrame s = s.dispatch s.cmd (frame.drop 4) := by
  obtain ⟨hn, hread⟩ := hbuf
  have hpayload : s.buf.readRange 4 s.len.toNat = some (frame.drop 4) := by
    have hdrop := Memory.readRange_drop 4 (Memory.readRange_append_left hread)
    rwa [List.length_drop, hlen, Nat.add_sub_cancel_left] at hdrop
  simp only [completeFrame, hn, hread, hcrc, hpayload, if_true]

/-! ### The whole rule R104 -/

section
variable {s : State} {b : Byte} {frame : List Byte} (hst : s.st = .waitChecksum) (hcap : s.cfg.capacity ≤ 512)
  (hroom : s.n.toNat < frameBufSize s.cfg) (hbuf : s.buffers frame)
include hst hcap hroom hbuf

theorem feed_of_waitChecksum_of_invalid (hcrc : verifyFrameCrc (frame ++ [b]) = false) :
    feed b s = (s.appended b).raiseResponse s.cfg.errInvalidFrame [] := by
  rw [feed_of_waitChecksum hst hroom, completeFrame_of_invalid (State.buffers_appended b hcap hbuf hroom) hcrc]
  rfl

theorem feed_of_waitChecksum_of_valid (hcrc : verifyFrameCrc (frame ++ [b]) = true)
    (hlen : frame.length = 4 + s.len.toNat) :
    feed b s = andThen ((s.appended b).dispatch s.cmd (frame.drop 4)) (fun t => .next t.reinit) := by
  rw [feed_of_waitChecksum hst hroom, completeFrame_of_valid (State.buffers_appended b hcap hbuf hroom) hcrc hlen]
  rfl

/-- A wrong checksum is answered INVALID_FRAME. -/
theorem feed_rejects_of_invalid (hcrc : verifyFrameCrc (frame ++ [b]) = false) (hsink : s.cfg.sink.returns = true) :
    feed b s = .next (s.reinit.sent (ackFrame s.cfg.errInvalidFrame [])) := by
  rw [feed_of_waitChecksum_of_invalid hst hcap hroom hbuf hcrc]
  exact State.raiseResponse_eq_next.mpr ⟨Nat.zero_le _, hsink, rfl⟩

/-- A valid frame is dispatched, and the DISPATCHER's answer is sent. -/
theorem feed_dispatches_of_valid (hcrc : verifyFrameCrc (frame ++ [b]) = true)
    (hlen : frame.length = 4 + s.len.toNat) {code : Byte} {extra : List Byte}
    (hanswer : s.answer s.cmd (frame.drop 4) = some (code, extra)) (hx : extra.length ≤ s.cfg.maxAckExtra)
    (hsink : s.cfg.sink.returns = true) :
    feed b s = .next ((s.reinit.logDispatch s.cmd (frame.drop 4)).sent (ackFrame code extra)) := by
  have hdispatch := State.dispatch_eq_next.mpr
    ⟨code, extra, (show (s.appended b).answer s.cmd (frame.drop 4) = _ from hanswer), hx, hsink, rfl⟩
  rw [feed_of_waitChecksum_of_valid hst hcap hroom hbuf hcrc hlen, hdispatch]
  rfl

end

/-- In WaitChecksum the row RX.CRC is FEED_BYTE. -/
theorem exec_eq_feed_of_waitChecksum {s : State} {b : Byte} {i : Instr} (hst : s.st = .waitChecksum)
    (hi : i ∈ [Instr.feedByte b, .rxCrc b]) : exec i s = feed b (s.returning .nothing) := by
  rcases List.mem_pair.mp hi with rfl | rfl
  · rfl
  · exact exec_selected (by simp [hst]) (State.decodeByte_of_waitChecksum b hst)

/-- Settles O27 (holds): the verdict on the buffered bytes and `b` chooses the branch of R108. -/
theorem checksumByteCompletesFrame : Obligations.ChecksumByteCompletesFrame := by
  intro s b frame hst hcap hroom hbuf hsink
  refine ⟨fun hcrc i hi => ?_, fun hcrc hlen code extra hanswer hx i hi => ?_⟩
  · exact (exec_eq_feed_of_waitChecksum hst hi).trans
      (feed_rejects_of_invalid (s := s.returning .nothing) hst hcap hroom hbuf hcrc hsink)
  · exact (exec_eq_feed_of_waitChecksum hst hi).trans
      (feed_dispatches_of_valid (s := s.returning .nothing) hst hcap hroom hbuf hcrc hlen hanswer hx hsink)

/-! ### Collaborators that do not keep the contract -/

/-- U6: an emission to a SINK that never returns. -/
theorem respond_of_hanging_sink {s : State} {extra : List Byte} (code : Byte) (hx : extra.length ≤ s.cfg.maxAckExtra)
    (hsink : s.cfg.sink.returns = false) : s.respond code extra = .fault .sinkNeverReturns := by
  simp [State.respond, encodeAck_of_le code hx, State.emit, hsink]

/-- U4: an answer too long to encode. -/
theorem respond_of_too_long {s : State} {extra : List Byte} (code : Byte) (hx : s.cfg.maxAckExtra < extra.length) :
    s.respond code extra = .refused .emitOfFail := by
  simp [State.respond, encodeAck_of_lt code hx, State.emit]

theorem raiseResponse_of_hanging_sink {s : State} (code : Byte) (hsink : s.cfg.sink.returns = false) :
    s.raiseResponse code [] = .fault .sinkNeverReturns := by
  rw [State.raiseResponse, respond_of_hanging_sink code (Nat.zero_le _) hsink]
  rfl

theorem dispatch_of_answer {s : State} {cmd code : Byte} {payload extra : List Byte}
    (h : s.answer cmd payload = some (code, extra)) :
    s.dispatch cmd payload = (s.logDispatch cmd payload).respond code extra := by
  simp only [State.dispatch, h]

/-- U6: a request of a DISPATCHER that never answers. -/
theorem dispatch_of_silent {s : State} (cmd : Byte) (payload : List Byte) (h : s.cfg.dispatcher = .silent) :
    s.dispatch cmd payload = .fault .dispatcherNeverReturns := by
  simp [State.dispatch, State.answer, h]

theorem State.answer_of_oracle {s : State} (cmd : Byte) (payload : List Byte) (h : s.cfg.dispatcher = .oracle) :
    ∃ code extra, s.answer cmd payload = some (code, extra) ∧ extra.length ≤ s.cfg.maxAckExtra := by
  simp only [State.answer, h]
  exact ⟨_, _, rfl, List.length_take_le _ _⟩

theorem State.answer_of_stub {s : State} (cmd : Byte) (payload : List Byte) (h : s.cfg.dispatcher = .stub) :
    ∃ code, s.answer cmd payload = some (code, []) := by
  simp only [State.answer, h]
  exact ⟨_, congrArg some (Prod.ext rfl (stubAnswer_extra s.cfg cmd))⟩

theorem State.answer_of_fixed {s : State} {code : Byte} {extra : List Byte} (cmd : Byte) (payload : List Byte)
    (h : s.cfg.dispatcher = .fixed code extra) : s.answer cmd payload = some (code, extra) := by
  simp only [State.answer, h]

theorem dispatch_of_hanging_sink {s : State} {cmd code : Byte} {payload extra : List Byte}
    (h : s.answer cmd payload = some (code, extra)) (hx : extra.length ≤ s.cfg.maxAckExtra)
    (hsink : s.cfg.sink.returns = false) : s.dispatch cmd payload = .fault .sinkNeverReturns :=
  (dispatch_of_answer h).trans (respond_of_hanging_sink code hx hsink)

theorem dispatch_of_too_long {s : State} {cmd code : Byte} {payload extra : List Byte}
    (h : s.answer cmd payload = some (code, extra)) (hx : s.cfg.maxAckExtra < extra.length) :
    s.dispatch cmd payload = .refused .emitOfFail :=
  (dispatch_of_answer h).trans (respond_of_too_long code hx)

/-- U6 for the rejected length, as a FEED_BYTE and as a row. -/
theorem exec_rejection_of_hanging_sink {s : State} {lo b : Byte} (hn : s.n = 2#16) (hst : s.st = .waitLenHigh)
    (hlo : s.buf.read 1 = some lo) (hfull : s.cfg.capacity < lo.toNat + 256 * b.toNat)
    (hsink : s.cfg.sink.returns = false) {i : Instr} (hi : i ∈ [Instr.feedByte b, .rxLenHiFull b]) :
    exec i s = .fault .sinkNeverReturns := by
  have hfeed : exec (.feedByte b) s = .fault .sinkNeverReturns :=
    (feed_of_waitLenHigh_of_lt (s := s.returning .nothing) hst hn hlo hfull).trans
      (raiseResponse_of_hanging_sink _ hsink)
  have hsel := State.decodeByte_of_waitLenHigh b hst hlo
  rw [if_neg (Nat.not_le.mpr hfull)] at hsel
  rcases List.mem_pair.mp hi with rfl | rfl
  · exact hfeed
  · exact (exec_selected (fun _ => hn) hsel).trans hfeed

/-- Settles O38 (holds): what stops the response or the dispatch stops the FEED_BYTE. -/
theorem hangingCollaboratorStopsTheFrame : Obligations.HangingCollaboratorStopsTheFrame := by
  intro s b h
  refine ⟨fun lo hst hlo hfull hsink i hi => ?_, fun frame hst hbuf i hi => ?_⟩
  · exact exec_rejection_of_hanging_sink (State.lenHigh_of_inv h hst).1 hst hlo hfull hsink hi
  have hcap := Params.capacity_le_of_wf h.1
  have hroom := State.room_of_inv h
  obtain ⟨-, -, hn, -⟩ := (State.inv_iff hst).mp h
  rw [exec_eq_feed_of_waitChecksum hst hi]
  refine ⟨fun hcrc hsink => ?_, fun hcrc => ?_⟩
  · rw [feed_of_waitChecksum_of_invalid (s := s.returning .nothing) hst hcap hroom hbuf hcrc]
    exact raiseResponse_of_hanging_sink _ hsink
  rw [feed_of_waitChecksum_of_valid (s := s.returning .nothing) hst hcap hroom hbuf hcrc (hbuf.1.symm.trans hn),
    State.returning_cmd]
  generalize hu : (s.returning .nothing).appended b = u
  have hcfg : u.cfg = s.cfg := hu ▸ rfl
  rw [← hcfg]
  refine ⟨fun hd => ?_, fun hsink => ⟨fun hd => ?_, fun hd => ?_, fun code extra hd hx => ?_⟩,
    fun code extra hd hx => ?_⟩
  · rw [dispatch_of_silent _ _ hd, andThen_fault]
  · obtain ⟨code, extra, hanswer, hx⟩ := State.answer_of_oracle s.cmd (frame.drop 4) hd
    rw [dispatch_of_hanging_sink hanswer hx hsink, andThen_fault]
  · obtain ⟨code, hanswer⟩ := State.answer_of_stub s.cmd (frame.drop 4) hd
    rw [dispatch_of_hanging_sink hanswer (Nat.zero_le _) hsink, andThen_fault]
  · rw [dispatch_of_hanging_sink (State.answer_of_fixed _ _ hd) hx hsink, andThen_fault]
  · rw [dispatch_of_too_long (State.answer_of_fixed _ _ hd) hx, andThen_refused]

end Sys2Proof.Machine
end

section
/-! O33, O58: which operations emit, in every state (42_frame_receiver.md R109, R115): a rule either keeps TX or sends one
response and re-initialises the receiver. -/

namespace Sys2Proof.Machine

/-! ### Rules that emit nothing -/

/-- `f` leaves TX as it is whenever it completes. -/
def quiet (f : State → Result) : Prop := ∀ s t, f s = .next t → t.tx = s.tx

theorem quiet_next {g : State → State} (h : ∀ s, (g s).tx = s.tx) : quiet (fun s => .next (g s)) := by
  intro s t ht
  cases ht
  exact h s

theorem quiet_andThen {f g : State → Result} (hf : quiet f) (hg : quiet g) : quiet (fun s => andThen (f s) g) := by
  intro s t ht
  obtain ⟨u, hu, ht⟩ := andThen_eq_next.mp ht
  exact (hg u t ht).trans (hf s u hu)

theorem quiet_append (b : Byte) : quiet (State.append b) := by
  intro s t ht
  obtain ⟨-, rfl⟩ := State.append_eq_next.mp ht
  rfl

theorem quiet_takeLength (b : Byte) : quiet (takeLength b) := by
  refine quiet_andThen (quiet_append b) fun s t ht => ?_
  obtain ⟨v, -, rfl⟩ := State.composeLength_eq_next.mp ht
  rfl

theorem quiet_openFrame : quiet openFrame := fun s t ht =>
  quiet_andThen (quiet_append startMarker) (quiet_next (g := State.goto .waitLenLow) fun _ => rfl) s.clear t ht

theorem quiet_takeLenLow (b : Byte) : quiet (takeLenLow b) := quiet_andThen (quiet_append b) (quiet_next fun _ => rfl)

theorem quiet_storeCommand (b : Byte) : quiet (storeCommand b) :=
  quiet_andThen (quiet_append b) (quiet_next fun _ => rfl)

theorem quiet_storePayload (b : Byte) : quiet (storePayload b) :=
  quiet_andThen (quiet_append b) (quiet_next fun _ => rfl)

theorem quiet_takeCommandByte (b : Byte) : quiet (takeCommandByte b) :=
  quiet_andThen (quiet_storeCommand b) (quiet_next fun _ => rfl)

theorem quiet_takePayloadByte (b : Byte) : quiet (takePayloadByte b) :=
  quiet_andThen (quiet_storePayload b) (quiet_next fun _ => by split <;> rfl)

/-! ### Rules that answer -/

/-- `f` adds one element to TX whenever it completes. -/
def sendsOne (f : State → Result) : Prop := ∀ s t, f s = .next t → ∃ w, t.tx = s.tx ++ [w]

theorem sendsOne_andThen {f g : State → Result} (hf : quiet f) (hg : sendsOne g) :
    sendsOne (fun s => andThen (f s) g) := by
  intro s t ht
  obtain ⟨u, hu, ht⟩ := andThen_eq_next.mp ht
  exact hf s u hu ▸ hg u t ht

theorem sendsOne_respond (code : Byte) (extra : List Byte) : sendsOne (State.respond code extra) := by
  intro s t ht
  obtain ⟨-, -, rfl⟩ := State.respond_eq_next.mp ht
  exact ⟨_, rfl⟩

theorem sendsOne_dispatch (cmd : Byte) (payload : List Byte) : sendsOne (State.dispatch cmd payload) := by
  intro s t ht
  obtain ⟨code, extra, -, -, -, rfl⟩ := State.dispatch_eq_next.mp ht
  exact ⟨_, rfl⟩

/-- Valid or not, a frame is answered once (42_frame_receiver.md R108). -/
theorem sendsOne_completeFrame : sendsOne completeFrame := by
  intro s t ht
  unfold completeFrame at ht
  split at ht
  · cases ht
  · split at ht
    · split at ht
      · cases ht
      · exact sendsOne_dispatch _ _ s t ht
    · exact sendsOne_respond _ _ s t ht

/-- Whenever `f` completes it has sent one response, and the receiver is in the reset state. -/
def answersOnce (f : State → Result) : Prop :=
  ∀ s t, f s = .next t → (∃ w, t.tx = s.tx ++ [w]) ∧ t.receiverIdle

theorem answersOnce_andThen {f g : State → Result} (hf : quiet f) (hg : answersOnce g) :
    answersOnce (fun s => andThen (f s) g) := by
  intro s t ht
  obtain ⟨u, hu, ht⟩ := andThen_eq_next.mp ht
  exact hf s u hu ▸ hg u t ht

theorem answersOnce_andThen_reinit {f : State → Result} (hf : sendsOne f) :
    answersOnce (fun s => andThen (f s) (fun t => .next t.reinit)) := by
  intro s t ht
  obtain ⟨u, hu, htu⟩ := andThen_eq_next.mp ht
  cases htu
  exact ⟨hf s u hu, State.receiverIdle_reinit u⟩

theorem answersOnce_rejectLength : answersOnce rejectLength := fun s =>
  answersOnce_andThen_reinit (sendsOne_respond s.cfg.errBufferFull []) s

theorem answersOnce_takeChecksum (b : Byte) : answersOnce (takeChecksum b) :=
  answersOnce_andThen_reinit (sendsOne_andThen (quiet_append b) sendsOne_completeFrame)

/-! ### FEED_BYTE and the rows -/

/-- From `s` to `t` a frame that ended in `s` was answered once and the receiver is idle. -/
def State.answeredIn (s t : State) : Prop :=
  (s.st = .waitChecksum ∨ s.st = .waitLenHigh) ∧ (∃ w, t.tx = s.tx ++ [w]) ∧ t.receiverIdle

/-- A FEED_BYTE that completes answers in WaitChecksum, answers or keeps TX in WaitLenHigh, and keeps it elsewhere. -/
theorem feed_quiet_or_answers {s t : State} {b : Byte} (ht : feed b s = .next t) :
    (s.st ≠ .waitChecksum ∧ t.tx = s.tx) ∨ s.answeredIn t := by
  unfold feed at ht
  cases hst : s.st <;> simp only [hst] at ht
  case waitStart =>
    refine .inl ⟨nofun, ?_⟩
    split at ht
    · exact quiet_openFrame s t ht
    · exact quiet_next (g := id) (fun _ => rfl) s t ht
  case waitLenLow => exact .inl ⟨nofun, quiet_takeLenLow b s t ht⟩
  case waitLenHigh =>
    obtain ⟨u, hu, htu⟩ := andThen_eq_next.mp ht
    have htx := quiet_takeLength b s u hu
    split at htu
    · exact .inr ⟨.inr hst, htx ▸ answersOnce_rejectLength u t htu⟩
    · cases htu
      exact .inl ⟨nofun, htx⟩
  case waitCommand => exact .inl ⟨nofun, quiet_takeCommandByte b s t ht⟩
  case waitPayload => exact .inl ⟨nofun, quiet_takePayloadByte b s t ht⟩
  case waitChecksum => exact .inr ⟨.inl hst, answersOnce_takeChecksum b s t ht⟩

/-- Settles O33 (holds): whatever FEED_BYTE emits, it emits just before `reinit()`. -/
theorem frameEndLeavesResetState : Obligations.FrameEndLeavesResetState := by
  intro s t b ht
  rcases feed_quiet_or_answers (s := s.returning .nothing) ht with ⟨hst, htx⟩ | ⟨-, -, hidle⟩
  · exact ⟨fun h => absurd h hst, fun h => absurd htx h⟩
  · exact ⟨fun _ => hidle, fun _ => hidle⟩

/-- RX.LEN_HI.FULL and RX.CRC are the two rows that emit. -/
theorem quiet_or_answersOnce_of_rowRule {i : Instr} {b : Byte} {rule : State → Result}
    (hrow : rowRule i = some (b, rule)) : quiet rule ∨ ((i = .rxLenHiFull b ∨ i = .rxCrc b) ∧ answersOnce rule) := by
  cases i <;> cases hrow
  case rxDiscard => exact .inl (quiet_next fun _ => rfl)
  case rxStart => exact .inl quiet_openFrame
  case rxLenLo => exact .inl (quiet_takeLenLow b)
  case rxLenHi => exact .inl (quiet_andThen (quiet_takeLength b) (quiet_next fun _ => rfl))
  case rxLenHiFull => exact .inr ⟨.inl rfl, answersOnce_andThen (quiet_takeLength b) answersOnce_rejectLength⟩
  case rxCmd | rxCmdEmpty => exact .inl (quiet_andThen (quiet_storeCommand b) (quiet_next fun _ => rfl))
  case rxPayload => exact .inl (quiet_storePayload b)
  case rxPayloadLast => exact .inl (quiet_andThen (quiet_storePayload b) (quiet_next fun _ => rfl))
  case rxCrc => exact .inr ⟨.inr rfl, answersOnce_takeChecksum b⟩

/-- A row that emits is selected only where a frame can end (42_frame_receiver.md R100, R104). -/
theorem State.frame_ends_of_decodeByte {s : State} {b : Byte} {i : Instr} (h : s.decodeByte b = some i)
    (hi : i = .rxLenHiFull b ∨ i = .rxCrc b) : s.st = .waitChecksum ∨ s.st = .waitLenHigh := by
  cases hst : s.st with
  | waitStart => rw [State.decodeByte_of_waitStart b hst] at h; cases h; split at hi <;> simp at hi
  | waitLenLow => rw [State.decodeByte_of_waitLenLow b hst] at h; cases h; simp at hi
  | waitLenHigh => exact .inr rfl
  | waitCommand => rw [State.decodeByte_of_waitCommand b hst] at h; cases h; split at hi <;> simp at hi
  | waitPayload => rw [State.decodeByte_of_waitPayload b hst] at h; cases h; split at hi <;> simp at hi
  | waitChecksum => exact .inl rfl

theorem row_quiet_or_answers {i : Instr} {b : Byte} {rule : State → Result} {s t : State}
    (hrow : rowRule i = some (b, rule)) (ht : exec i s = .next t) : t.tx = s.tx ∨ s.answeredIn t := by
  rw [exec_of_rowRule hrow, whenSelected] at ht
  split at ht
  · rename_i hsel
    rcases quiet_or_answersOnce_of_rowRule hrow with hquiet | ⟨hi, hanswers⟩
    · exact .inl (hquiet (s.returning .nothing) t ht)
    · exact .inr ⟨State.frame_ends_of_decodeByte hsel hi, hanswers (s.returning .nothing) t ht⟩
  · cases ht

/-- Settles O58 (holds): besides INIT and the frame rows an instruction hands a value back, re-initialises, or is one byte
at RX or one selected row. -/
theorem nothingElseIsEmitted : Obligations.NothingElseIsEmitted := by
  intro i s t hinit hframe ht
  have hfed : ∀ b, feed b (s.returning .nothing) = .next t → t.tx = s.tx ∨ s.answeredIn t := fun b hb =>
    (feed_quiet_or_answers hb).imp_left And.right
  cases i with
  | crc8Update | crc8 | encodeFrame | encodeAck | verifyFrameCrc | decodeFrame
  | errOk | errGeneral | errInvalidFrame | errBufferFull | errVm | reset => cases ht; exact .inl rfl
  | feedByte | cmdExec | cmdPing | cmdQueryStack | cmdQueryMemory | cmdQueryWord | cmdReset => exact hfed _ ht
  | rxDiscard | rxStart | rxLenLo | rxLenHi | rxLenHiFull | rxCmd | rxCmdEmpty | rxPayload | rxPayloadLast | rxCrc =>
    exact row_quiet_or_answers rfl ht
  | req c bs => exact absurd rfl (hframe c bs).1
  | ack c bs => exact absurd rfl (hframe c bs).2
  | init capacity sink context => exact absurd rfl (hinit capacity sink context)

end Sys2Proof.Machine
end

section
/-! O30, O44: inside a frame a byte is stored or ends the frame, so the fill count bounds the bytes still to come
(42_frame_receiver.md R105, R113). -/

namespace Sys2Proof.Machine

/-- Outside WaitStart a byte that does not end the frame is stored at position `n`, whatever its value, and nothing is
emitted or dispatched. -/
theorem feed_stores {s t : State} {b : Byte} (h : s.Inv) (hst : s.st ≠ .waitStart) (hcheck : s.st ≠ .waitChecksum)
    (hfit : s.st = .waitLenHigh → ∃ lo : Byte, s.buf.read 1 = some lo ∧ lo.toNat + 256 * b.toNat ≤ s.cfg.capacity)
    (ht : feed b s = .next t) :
    t.st ≠ .waitStart ∧ t.buf = s.buf.write s.n.toNat b ∧ t.n.toNat = s.n.toNat + 1 ∧ t.tx = s.tx ∧ t.dsp = s.dsp := by
  have hroom := State.room_of_inv h
  have hn : (s.appended b).n.toNat = s.n.toNat + 1 := State.appended_n_toNat b h.1 hroom
  cases hcase : s.st with
  | waitStart => exact absurd hcase hst
  | waitLenLow =>
    rw [feed_of_waitLenLow hcase hroom] at ht
    cases ht
    exact ⟨nofun, rfl, hn, rfl, rfl⟩
  | waitLenHigh =>
    obtain ⟨lo, hlo, hle⟩ := hfit hcase
    rw [feed_of_waitLenHigh_of_le hcase (State.lenHigh_of_inv h hcase).1 hlo hle] at ht
    cases ht
    exact ⟨nofun, rfl, hn, rfl, rfl⟩
  | waitCommand =>
    rw [feed_of_waitCommand hcase hroom] at ht
    cases ht
    refine ⟨?_, rfl, hn, rfl, rfl⟩
    rw [State.goto_st]
    split <;> nofun
  | waitPayload =>
    rw [feed_of_waitPayload hcase hroom] at ht
    cases ht
    split
    · exact ⟨nofun, rfl, hn, rfl, rfl⟩
    · exact ⟨hst, rfl, hn, rfl, rfl⟩
  | waitChecksum => exact absurd hcase hcheck

/-- A rejected length leaves the receiver idle (42_frame_receiver.md R100). -/
theorem receiverIdle_of_feed_of_lt {s t : State} {lo b : Byte} (h : s.Inv) (hst : s.st = .waitLenHigh)
    (hlo : s.buf.read 1 = some lo) (hfull : s.cfg.capacity < lo.toNat + 256 * b.toNat) (ht : feed b s = .next t) :
    t.receiverIdle := by
  rw [feed_of_waitLenHigh_of_lt hst (State.lenHigh_of_inv h hst).1 hlo hfull] at ht
  exact (answersOnce_rejectLength _ t ht).2

theorem receiverIdle_of_feed_of_waitChecksum {s t : State} {b : Byte} (hst : s.st = .waitChecksum)
    (ht : feed b s = .next t) : t.receiverIdle := by
  rcases feed_quiet_or_answers ht with ⟨hne, -⟩ | ⟨-, -, hidle⟩
  · exact absurd hst hne
  · exact hidle

/-- Settles O30 (holds): `feed_stores` speaks of every byte that does not end the frame, and so of 0xA5. -/
theorem startMarkerInsideFrameIsData : Obligations.StartMarkerInsideFrameIsData := by
  intro s t h hst ht
  have hinv : (s.returning .nothing).Inv := State.inv_returning _ h
  have hfeed : feed 0xA5#8 (s.returning .nothing) = .next t := ht
  refine ⟨?_, fun ⟨hcheck, hfit⟩ => ?_⟩
  · rintro (hcase | ⟨hcase, lo, hlo, hfull⟩)
    · exact receiverIdle_of_feed_of_waitChecksum (s := s.returning .nothing) hcase hfeed
    · exact receiverIdle_of_feed_of_lt (b := 0xA5#8) hinv hcase hlo hfull hfeed
  · obtain ⟨hst', hbuf, hn, htx, hdsp⟩ := feed_stores (b := 0xA5#8) hinv hst hcheck hfit hfeed
    refine ⟨hst', hn, hbuf ▸ Memory.read_write_same _ _ _, fun a ha => ?_, htx, hdsp⟩
    rw [hbuf]
    exact Memory.read_write_other s.buf s.n.toNat a _ (Nat.ne_of_lt ha)

/-! ### No frame lasts for ever -/

/-- A byte inside a frame ends it or makes it longer. -/
theorem feed_ends_or_grows {s t : State} {b : Byte} (h : s.Inv) (hst : s.st ≠ .waitStart) (ht : feed b s = .next t) :
    t.st = .waitStart ∨ t.n.toNat = s.n.toNat + 1 := by
  by_cases hcheck : s.st = .waitChecksum
  · exact .inl (receiverIdle_of_feed_of_waitChecksum hcheck ht).1
  by_cases hfit : s.st = .waitLenHigh →
      ∃ lo : Byte, s.buf.read 1 = some lo ∧ lo.toNat + 256 * b.toNat ≤ s.cfg.capacity
  · obtain ⟨-, -, hn, -⟩ := feed_stores h hst hcheck hfit ht
    exact .inr hn
  · obtain ⟨hcase, hfull⟩ := Classical.not_imp.mp hfit
    obtain ⟨-, lo, hlo⟩ := State.lenHigh_of_inv h hcase
    have hlt : s.cfg.capacity < lo.toNat + 256 * b.toNat := Nat.lt_of_not_le fun hle => hfull ⟨lo, hlo, hle⟩
    exact .inl (receiverIdle_of_feed_of_lt h hcase hlo hlt ht).1

/-- Inside a frame at least the start marker is buffered (10_state.md R24). -/
theorem State.n_pos_of_inv {s : State} (h : s.Inv) (hst : s.st ≠ .waitStart) : 1 ≤ s.n.toNat := by
  obtain ⟨-, -, hline⟩ := (State.inv_iff rfl).mp h
  cases hcase : s.st <;> rw [hcase] at hline
  case waitStart => exact absurd hcase hst
  case waitLenLow | waitLenHigh | waitCommand => simp [hline.1]
  case waitPayload | waitChecksum => omega

/-- Bytes that would fill the frame buffer contain the end of the frame. -/
theorem exists_take_to_waitStart {s : State} (bs : List Byte) (h : s.Inv) (hcontract : s.cfg.contract = true)
    (hlen : frameBufSize s.cfg ≤ s.n.toNat + bs.length) :
    ∃ (k : Nat) (t : State), k ≤ bs.length ∧ feedAll (bs.take k) s = .next t ∧ t.st = .waitStart := by
  induction bs generalizing s with
  | nil => exact absurd (State.room_of_inv h) (Nat.not_lt.mpr hlen)
  | cons b bs ih =>
    by_cases hst : s.st = .waitStart
    · exact ⟨0, s, Nat.zero_le _, rfl, hst⟩
    obtain ⟨u, hu⟩ := feed_completes b h hcontract
    have hcfg : u.cfg = s.cfg := keepsCfg_feed b s u hu
    rcases feed_ends_or_grows h hst hu with hend | hgrows
    · exact ⟨1, u, by simp, andThen_eq_next.mpr ⟨u, hu, rfl⟩, hend⟩
    · rw [List.length_cons] at hlen
      obtain ⟨k, t, hk, ht, hend⟩ :=
        ih ((feed_sound b h).inv u hu) (hcfg ▸ hcontract) (by rw [hcfg, hgrows]; omega)
      exact ⟨k + 1, t, Nat.succ_le_succ hk, andThen_eq_next.mpr ⟨u, hu, ht⟩, hend⟩

/-- Settles O44 (holds): outside WaitStart one byte is buffered already, so 4 + BUFFER_CAPACITY more would fill the
buffer. -/
theorem noFrameWedgesTheReceiver : Obligations.NoFrameWedgesTheReceiver := by
  intro s bs h hcontract hlen
  by_cases hst : s.st = .waitStart
  · exact ⟨0, s, Nat.zero_le _, rfl, hst⟩
  · have hn := State.n_pos_of_inv h hst
    exact exists_take_to_waitStart bs h hcontract (by simp only [frameBufSize, frameOverhead]; omega)

end Sys2Proof.Machine
end

section
/-! O39, O40: bytes an idle receiver drops, and a header it rejects (42_frame_receiver.md R110, R112). -/

namespace Sys2Proof.Machine

/-- Settles O39 (holds): by induction on the garbage; each byte leaves the state itself. -/
theorem garbageWithoutMarkerIsAbsorbed : Obligations.GarbageWithoutMarkerIsAbsorbed := by
  intro s g bs hst hg
  have habsorbed : feedAll g s = .next s := by
    induction g with
    | nil => rfl
    | cons b g ih =>
      obtain ⟨hb, hg⟩ := not_or.mp (mt List.mem_cons.mpr hg)
      exact andThen_eq_next.mpr ⟨s, feed_of_waitStart_of_ne hst (Ne.symm hb), ih hg⟩
  refine ⟨habsorbed, ?_⟩
  rw [feedAll_append, habsorbed, andThen_next]

/-- Settles O40 (holds): `feedAll_header_of_lt`, and two bytes are stored before it. -/
theorem oversizedLengthIsRejectedAtThirdByte : Obligations.OversizedLengthIsRejectedAtThirdByte :=
  fun _ lo _ hidle hsink hfull =>
    ⟨⟨_, feedAll_startMarker_lenLow lo hidle.1, rfl, rfl⟩, feedAll_header_of_lt hidle hsink hfull⟩

end Sys2Proof.Machine
end

section
/-! O34, O45: no rule of the receiver reads what was emitted, dispatched, handed back or is still pending; each extends TX
and DSP and leaves the queue (42_frame_receiver.md R96, R115). -/

namespace Sys2Proof.Machine

/-- What a receiver carries along without any of its rules reading it. -/
structure Past where
  tx : List SinkWrite
  dsp : List DispatchCall
  ret : Ret
  pending : List Request

def State.past (s : State) : Past := ⟨s.tx, s.dsp, s.ret, s.pending⟩

/-- `s` as it would stand had `p` gone before: TX and DSP continue those of `p`. -/
def State.after (p : Past) (s : State) : State :=
  { s with tx := p.tx ++ s.tx, dsp := p.dsp ++ s.dsp, ret := p.ret, pending := p.pending }

@[simp] theorem State.after_st (p : Past) (s : State) : (s.after p).st = s.st := rfl
@[simp] theorem State.after_buf (p : Past) (s : State) : (s.after p).buf = s.buf := rfl
@[simp] theorem State.after_n (p : Past) (s : State) : (s.after p).n = s.n := rfl
@[simp] theorem State.after_len (p : Past) (s : State) : (s.after p).len = s.len := rfl
@[simp] theorem State.after_cmd (p : Past) (s : State) : (s.after p).cmd = s.cmd := rfl
@[simp] theorem State.after_cur (p : Past) (s : State) : (s.after p).cur = s.cur := rfl
@[simp] theorem State.after_cfg (p : Past) (s : State) : (s.after p).cfg = s.cfg := rfl

/-- `s` with nothing emitted or dispatched so far; `State.after_past` restores `s`. -/
def State.fresh (s : State) : State := { s with tx := [], dsp := [], ret := .nothing, pending := [] }

theorem State.after_past (s : State) : s.fresh.after s.past = s := by
  simp [State.after, State.fresh, State.past]

/-- Idle receivers of one configuration and one draw count differ in their past only. -/
theorem State.fresh_eq_of_idle {s u : State} (hs : s.receiverIdle) (hu : u.receiverIdle) (hcfg : s.cfg = u.cfg)
    (hdraws : s.draws = u.draws) : s.fresh = u.fresh := by
  cases s
  cases u
  obtain ⟨rfl, rfl, rfl, rfl, rfl, rfl⟩ := hs
  obtain ⟨rfl, rfl, rfl, rfl, rfl, rfl⟩ := hu
  cases hcfg
  cases hdraws
  rfl

/-- `f` does the same after any past. -/
def pastBlind (f : State → Result) : Prop := ∀ p s, f (s.after p) = andThen (f s) (fun t => .next (t.after p))

theorem pastBlind_next {g : State → State} (h : ∀ p s, g (s.after p) = (g s).after p) :
    pastBlind (fun s => .next (g s)) := fun p s =>
  congrArg Host.Outcome.next (h p s)

theorem pastBlind_andThen {f g : State → Result} (hf : pastBlind f) (hg : pastBlind g) :
    pastBlind (fun s => andThen (f s) g) := by
  intro p s
  simp only [hf p s, andThen_assoc]
  exact andThen_congr fun u _ => hg p u

theorem pastBlind_append (b : Byte) : pastBlind (State.append b) := by
  intro p s
  by_cases h : s.n.toNat < frameBufSize s.cfg <;> simp [State.append, State.after, h]

theorem pastBlind_composeLength : pastBlind State.composeLength := by
  intro p s
  cases h : s.buf.declaredLength <;> simp [State.composeLength, State.after, h]

theorem pastBlind_respond (code : Byte) (extra : List Byte) : pastBlind (State.respond code extra) := by
  intro p s
  simp only [State.respond, State.after_cfg]
  cases encodeAck s.cfg.maxAckExtra code extra with
  | fail => rfl
  | ok bytes => by_cases h : s.cfg.sink.returns <;> simp [State.emit, State.after, h]

theorem State.logDispatch_after (cmd : Byte) (payload : List Byte) (p : Past) (s : State) :
    (s.after p).logDispatch cmd payload = (s.logDispatch cmd payload).after p := by
  simp [State.logDispatch, State.after]

theorem pastBlind_dispatch (cmd : Byte) (payload : List Byte) : pastBlind (State.dispatch cmd payload) := by
  intro p s
  have hanswer : (s.after p).answer cmd payload = s.answer cmd payload := rfl
  simp only [State.dispatch, hanswer, State.logDispatch_after]
  cases s.answer cmd payload with
  | none => rfl
  | some a => exact pastBlind_respond a.1 a.2 p (s.logDispatch cmd payload)

theorem pastBlind_completeFrame : pastBlind completeFrame := by
  intro p s
  simp only [completeFrame, State.after_buf, State.after_n, State.after_len, State.after_cmd, State.after_cfg]
  cases s.buf.readRange 0 s.n.toNat with
  | none => rfl
  | some frame =>
    by_cases hcrc : verifyFrameCrc frame
    · cases s.buf.readRange 4 s.len.toNat with
      | none => simp only [hcrc, if_true, andThen_fault]
      | some payload => simpa only [hcrc, if_true] using pastBlind_dispatch s.cmd payload p s
    · simpa only [hcrc, if_false, Bool.false_eq_true] using pastBlind_respond s.cfg.errInvalidFrame [] p s

theorem pastBlind_rejectLength : pastBlind rejectLength := fun p s =>
  pastBlind_andThen (pastBlind_respond s.cfg.errBufferFull []) (pastBlind_next fun _ _ => rfl) p s

theorem pastBlind_openFrame : pastBlind openFrame := fun p s =>
  pastBlind_andThen (pastBlind_append startMarker) (pastBlind_next fun _ _ => rfl) p s.clear

theorem pastBlind_takeLenLow (b : Byte) : pastBlind (takeLenLow b) :=
  pastBlind_andThen (pastBlind_append b) (pastBlind_next fun _ _ => rfl)

theorem pastBlind_takeLenHigh (b : Byte) : pastBlind (takeLenHigh b) := by
  refine pastBlind_andThen (pastBlind_andThen (pastBlind_append b) pastBlind_composeLength) fun p s => ?_
  by_cases hfull : s.len.toNat > s.cfg.capacity
  · simpa only [State.after_len, State.after_cfg, hfull, if_true] using pastBlind_rejectLength p s
  · simp only [State.after_len, State.after_cfg, hfull, if_false]
    rfl

theorem pastBlind_takeCommandByte (b : Byte) : pastBlind (takeCommandByte b) :=
  pastBlind_andThen (pastBlind_andThen (pastBlind_append b) (pastBlind_next fun _ _ => rfl))
    (pastBlind_next fun _ _ => rfl)

theorem pastBlind_takePayloadByte (b : Byte) : pastBlind (takePayloadByte b) := by
  refine pastBlind_andThen (pastBlind_andThen (pastBlind_append b) (pastBlind_next fun _ _ => rfl))
    (pastBlind_next fun p s => ?_)
  by_cases hlast : s.cur = s.len
  · simp only [State.after_cur, State.after_len, hlast, if_true]
    rfl
  · simp only [State.after_cur, State.after_len, hlast, if_false]

theorem pastBlind_takeChecksum (b : Byte) : pastBlind (takeChecksum b) :=
  pastBlind_andThen (pastBlind_andThen (pastBlind_append b) pastBlind_completeFrame) (pastBlind_next fun _ _ => rfl)

theorem pastBlind_feed (b : Byte) : pastBlind (feed b) := by
  intro p s
  simp only [feed, State.after_st]
  cases s.st with
  | waitStart =>
    cases isStart b with
    | true => exact pastBlind_openFrame p s
    | false => rfl
  | waitLenLow => exact pastBlind_takeLenLow b p s
  | waitLenHigh => exact pastBlind_takeLenHigh b p s
  | waitCommand => exact pastBlind_takeCommandByte b p s
  | waitPayload => exact pastBlind_takePayloadByte b p s
  | waitChecksum => exact pastBlind_takeChecksum b p s

theorem pastBlind_feedAll (bs : List Byte) : pastBlind (feedAll bs) := by
  induction bs with
  | nil => exact pastBlind_next fun _ _ => rfl
  | cons b bs ih => exact pastBlind_andThen (pastBlind_feed b) ih

/-- Where `f` leads from `s` is where it leads from `s` without its past, and that past put before. -/
theorem exists_eq_after_past {f : State → Result} (hf : pastBlind f) {s t : State} (ht : f s = .next t) :
    ∃ c, f s.fresh = .next c ∧ t = c.after s.past := by
  rw [← State.after_past s, hf] at ht
  obtain ⟨c, hc, hct⟩ := andThen_eq_next.mp ht
  cases hct
  exact ⟨c, hc, rfl⟩

/-- Settles O45 (holds): both runs are the run of one state without past, each put after its own. -/
theorem responsesIgnoreThePast : Obligations.ResponsesIgnoreThePast := by
  intro s u bs t hs hu hcfg hdraws ht
  obtain ⟨c, hc, rfl⟩ := exists_eq_after_past (pastBlind_feedAll bs) ht
  have hrun : feedAll bs u = .next (c.after u.past) := by
    rw [State.fresh_eq_of_idle hs hu hcfg hdraws] at hc
    rw [← State.after_past u, pastBlind_feedAll bs, hc, andThen_next, State.after_past]
  exact ⟨c.after u.past, c.tx, c.dsp, hrun, rfl, rfl, rfl, rfl⟩

/-- FEED_BYTE takes no request from the queue and adds none. -/
theorem feed_pending {s t : State} {b : Byte} (ht : feed b s = .next t) : t.pending = s.pending := by
  obtain ⟨c, -, rfl⟩ := exists_eq_after_past (pastBlind_feed b) ht
  rfl

/-- Settles O34 (holds): the request is FEED_BYTE, which completes under the contract (`feed_completes`) and keeps the
invariant (`feed_sound`). -/
theorem everyByteIsTaken : Obligations.EveryByteIsTaken := by
  intro s b rest h hcontract hpending
  have hinv : (State.returning .nothing { s with pending := rest }).Inv := h
  obtain ⟨t, ht⟩ := feed_completes b hinv hcontract
  exact ⟨t, (step_of_pending_cons hpending).trans ht, feed_pending ht, (feed_sound b hinv).inv t ht⟩

end Sys2Proof.Machine
end

section
/-! O41, O42: a whole frame fed to an idle receiver (42_frame_receiver.md R111, R114). The bytes before the last leave it in
WaitChecksum with these bytes buffered; the last one completes the frame. -/

namespace Sys2Proof.Machine

/-- Every byte of the request frame of `cmd` and `payload` but the checksum; `requestFrame_eq` ties it to the frame. -/
def requestHead (cmd : Byte) (payload : List Byte) : List Byte := startMarker :: frameBody payload.length cmd payload

theorem requestFrame_eq (cmd : Byte) (payload : List Byte) :
    requestFrame cmd payload = requestHead cmd payload ++ [crc8 (frameBody payload.length cmd payload)] := rfl

/-- The bytes of an acknowledgement are those of a request whose payload ends in the acknowledgement's checksum: its length
field counts one byte more than its extra payload (30_encoding.md R50). -/
theorem ackFrame_eq_requestHead (code : Byte) (x : List Byte) :
    ackFrame code x = requestHead code (x ++ [crc8 (frameBody (ackLenBias + x.length) code x)]) := by
  simp [ackFrame, frameBytes, requestHead, frameBody, ackLenBias, Nat.add_comm]

theorem requestHead_drop_four (cmd : Byte) (payload : List Byte) : (requestHead cmd payload).drop 4 = payload := rfl

/-! ### A frame on its way in -/

/-- From `s` the receiver has come to `t`: in state `x` with `frame` buffered, `len` declared and the command `cmd`, and
nothing outside the receiver's registers has changed. -/
structure Receiving (s t : State) (x : RxState) (len : Nat) (cmd : Byte) (frame : List Byte) : Prop where
  inv : t.Inv
  outside : t.reinit = s.reinit
  st : t.st = x
  held : t.buffers frame
  declared : t.len.toNat = len
  command : t.cmd = cmd

section
variable {s t u : State} {x : RxState} {len : Nat} {cmd : Byte} {frame : List Byte}

theorem Receiving.kept (h : Receiving s t x len cmd frame) :
    t.cfg = s.cfg ∧ t.tx = s.tx ∧ t.dsp = s.dsp ∧ t.ret = s.ret ∧ t.draws = s.draws := by
  have hout := h.outside
  simp only [State.reinit, State.mk.injEq, true_and] at hout
  obtain ⟨hcfg, htx, hdsp, hret, -, hdraws⟩ := hout
  exact ⟨hcfg, htx, hdsp, hret, hdraws⟩

/-- A byte that is appended and moves nothing outside the receiver's registers. -/
theorem Receiving.appended (h : Receiving s t x len cmd frame) {b : Byte} (hu : feed b t = .next u)
    (hbuf : u.buf = (t.appended b).buf) (hn : u.n = (t.appended b).n) (hout : u.reinit = t.reinit) :
    Receiving s u u.st u.len.toNat u.cmd (frame ++ [b]) := by
  have hheld := State.buffers_appended b (Params.capacity_le_of_wf h.inv.1) h.held (State.room_of_inv h.inv)
  rw [State.buffers, ← hbuf, ← hn] at hheld
  exact ⟨(feed_sound b h.inv).inv u hu, hout.trans h.outside, rfl, hheld, rfl, rfl⟩

theorem receiving_startMarker_lenLow (lo : Byte) (hidle : s.receiverIdle) (hcfg : s.cfg.wf = true) :
    Receiving s (s.lenHighDue lo) .waitLenHigh 0 0#8 [startMarker, lo] := by
  obtain ⟨hst, -, -, hlen, hcmd, -⟩ := id hidle
  refine ⟨?_, rfl, rfl, ⟨rfl, rfl⟩, congrArg BitVec.toNat hlen, hcmd⟩
  exact (feedAll_sound [startMarker, lo] (State.inv_of_idle hcfg hidle)).inv _ (feedAll_startMarker_lenLow lo hst)

theorem Receiving.lenHigh {lo : Byte} (h : Receiving s t .waitLenHigh len cmd [startMarker, lo]) {hi : Byte}
    (hfit : lo.toNat + 256 * hi.toNat ≤ s.cfg.capacity) :
    ∃ u, feed hi t = .next u ∧
      Receiving s u .waitCommand (lo.toNat + 256 * hi.toNat) cmd [startMarker, lo, hi] := by
  have hlo : t.buf.read 1 = some lo := (Memory.readRange_eq_some _ _ _).mp h.held.2 1 (by simp)
  obtain ⟨hcfg, -⟩ := h.kept
  have hfeed := feed_of_waitLenHigh_of_le h.st (State.lenHigh_of_inv h.inv h.st).1 hlo (hcfg ▸ hfit)
  exact ⟨_, hfeed, fromLe16_toNat lo hi ▸ h.command ▸ h.appended hfeed rfl rfl rfl⟩

theorem Receiving.command_byte (h : Receiving s t .waitCommand len cmd frame) (b : Byte) :
    ∃ u, feed b t = .next u ∧ Receiving s u (if len = 0 then .waitChecksum else .waitPayload) len b (frame ++ [b]) := by
  have hfeed := feed_of_waitCommand (b := b) h.st (State.room_of_inv h.inv)
  obtain rfl := h.declared
  have hzero : payloadEmpty t.len = true ↔ t.len.toNat = 0 := by
    rw [payloadEmpty_iff, ← BitVec.toNat_inj]
    rfl
  simp only [hzero] at hfeed
  exact ⟨_, hfeed, h.appended hfeed rfl rfl rfl⟩

theorem Receiving.payload_byte (h : Receiving s t .waitPayload len cmd frame) (b : Byte) :
    ∃ u, feed b t = .next u ∧
      Receiving s u (if frame.length + 1 = 4 + len then .waitChecksum else .waitPayload) len cmd (frame ++ [b]) := by
  have hfeed := feed_of_waitPayload (b := b) h.st (State.room_of_inv h.inv)
  obtain ⟨-, -, hn, -, -, -, hcur⟩ := (State.inv_iff h.st).mp h.inv
  have hsize : frame.length = 4 + t.cur.toNat := h.held.1.symm.trans hn
  have hlast : t.cur + 1#16 = t.len ↔ frame.length + 1 = 4 + len := by
    rw [← BitVec.toNat_inj, State.cur_succ_toNat hcur, h.declared]
    omega
  by_cases hend : frame.length + 1 = 4 + len
  · rw [if_pos (hlast.mpr hend)] at hfeed
    rw [if_pos hend]
    exact ⟨_, hfeed, h.declared ▸ h.command ▸ h.appended hfeed rfl rfl rfl⟩
  · rw [if_neg (mt hlast.mp hend)] at hfeed
    rw [if_neg hend]
    exact ⟨_, hfeed, h.declared ▸ h.command ▸ h.st ▸ h.appended hfeed rfl rfl rfl⟩

/-- The payload up to the declared length (42_frame_receiver.md R103). -/
theorem Receiving.payload (p : List Byte) (h : Receiving s t .waitPayload len cmd frame) (hp : p ≠ [])
    (hlen : frame.length + p.length = 4 + len) :
    ∃ u, feedAll p t = .next u ∧ Receiving s u .waitChecksum len cmd (frame ++ p) := by
  induction p generalizing t frame with
  | nil => exact absurd rfl hp
  | cons b p ih =>
    obtain ⟨u, hu, hrecv⟩ := h.payload_byte b
    rw [List.length_cons] at hlen
    cases p with
    | nil =>
      rw [if_pos (by simpa using hlen)] at hrecv
      exact ⟨u, andThen_eq_next.mpr ⟨u, hu, rfl⟩, hrecv⟩
    | cons c p =>
      rw [List.length_cons] at hlen
      rw [if_neg (by omega)] at hrecv
      obtain ⟨v, hv, hrecv'⟩ := ih hrecv nofun (by simp; omega)
      exact ⟨v, andThen_eq_next.mpr ⟨u, hu, hv⟩, by simpa using hrecv'⟩

end

/-- The four bytes before the payload, when the declared length fits. -/
theorem receiving_header {s : State} {len : Nat} (cmd : Byte) (hidle : s.receiverIdle) (hcfg : s.cfg.wf = true)
    (hlen : len ≤ s.cfg.capacity) :
    ∃ t, feedAll (startMarker :: frameBody len cmd []) s = .next t ∧
      Receiving s t (if len = 0 then .waitChecksum else .waitPayload) len cmd (startMarker :: frameBody len cmd []) := by
  have hcap := Params.capacity_le_of_wf hcfg
  have hjoin := le16_join len (by omega)
  obtain ⟨t, ht, hrecv⟩ := (receiving_startMarker_lenLow (BitVec.ofNat 8 len) hidle hcfg).lenHigh (hjoin.trans_le hlen)
  rw [hjoin] at hrecv
  obtain ⟨u, hu, hrecv⟩ := hrecv.command_byte cmd
  refine ⟨u, ?_, hrecv⟩
  calc feedAll (startMarker :: frameBody len cmd []) s
    _ = andThen (feedAll [startMarker, BitVec.ofNat 8 len] s) (feedAll [BitVec.ofNat 8 (len >>> 8), cmd]) :=
      feedAll_append [_, _] [_, _] s
    _ = .next u := by
      rw [feedAll_startMarker_lenLow _ hidle.1, andThen_next]
      exact andThen_eq_next.mpr ⟨t, ht, (feedAll_singleton cmd t).trans hu⟩

/-- All bytes but the checksum: the receiver waits for it (42_frame_receiver.md R111). -/
theorem receiving_requestHead {s : State} (cmd : Byte) {payload : List Byte} (hidle : s.receiverIdle)
    (hcfg : s.cfg.wf = true) (hlen : payload.length ≤ s.cfg.capacity) :
    ∃ t, feedAll (requestHead cmd payload) s = .next t ∧
      Receiving s t .waitChecksum payload.length cmd (requestHead cmd payload) := by
  obtain ⟨t, ht, hrecv⟩ := receiving_header cmd hidle hcfg hlen
  by_cases hp : payload = []
  · subst hp
    exact ⟨t, ht, hrecv⟩
  · rw [if_neg (mt List.length_eq_zero_iff.mp hp)] at hrecv
    obtain ⟨u, hu, hrecv⟩ := hrecv.payload payload hp (by simp)
    exact ⟨u, (feedAll_append (startMarker :: frameBody _ cmd []) payload s).trans (by rw [ht]; exact hu), hrecv⟩

/-! ### The last byte -/

section
variable {s t : State} {len : Nat} {cmd b : Byte} {frame : List Byte} (h : Receiving s t .waitChecksum len cmd frame)
  (hidle : s.receiverIdle) (hsink : s.cfg.sink.returns = true)
include h hidle hsink

theorem Receiving.feed_of_invalid (hcrc : verifyFrameCrc (frame ++ [b]) = false) :
    feed b t = .next (s.sent (ackFrame s.cfg.errInvalidFrame [])) := by
  have hout : t.reinit = s := h.outside.trans (State.reinit_of_idle hidle)
  obtain ⟨hcfg, -⟩ := h.kept
  rw [feed_rejects_of_invalid h.st (Params.capacity_le_of_wf h.inv.1) (State.room_of_inv h.inv) h.held hcrc
    (hcfg ▸ hsink), hout, hcfg]

theorem Receiving.feed_of_valid (hcrc : verifyFrameCrc (frame ++ [b]) = true) {code : Byte} {extra : List Byte}
    (hanswer : s.answer cmd (frame.drop 4) = some (code, extra)) (hx : extra.length ≤ s.cfg.maxAckExtra) :
    feed b t = .next ((s.logDispatch cmd (frame.drop 4)).sent (ackFrame code extra)) := by
  have hout : t.reinit = s := h.outside.trans (State.reinit_of_idle hidle)
  obtain ⟨hcfg, -⟩ := h.kept
  have hanswer' : t.answer t.cmd (frame.drop 4) = some (code, extra) := by
    rw [h.command, ← hanswer, ← hout]
    rfl
  obtain ⟨-, -, hn, -⟩ := (State.inv_iff h.st).mp h.inv
  rw [feed_dispatches_of_valid h.st (Params.capacity_le_of_wf h.inv.1) (State.room_of_inv h.inv) h.held hcrc
    (h.held.1.symm.trans hn) hanswer' (hcfg ▸ hx) (hcfg ▸ hsink), hout, h.command]

end

/-! ### REQ -/

/-- A request frame fed to an idle receiver is dispatched and answered once. -/
theorem feedAll_requestFrame {s : State} {cmd code : Byte} {payload extra : List Byte} (hidle : s.receiverIdle)
    (hcfg : s.cfg.wf = true) (hlen : payload.length ≤ s.cfg.capacity) (hsink : s.cfg.sink.returns = true)
    (hanswer : s.answer cmd payload = some (code, extra)) (hx : extra.length ≤ s.cfg.maxAckExtra) :
    feedAll (requestFrame cmd payload) s = .next ((s.logDispatch cmd payload).sent (ackFrame code extra)) := by
  obtain ⟨t, ht, hrecv⟩ := receiving_requestHead cmd hidle hcfg hlen
  have hlast := hrecv.feed_of_valid hidle hsink (verifyFrameCrc_frameBytes payload.length cmd payload) hanswer hx
  rw [requestFrame_eq, feedAll_append, ht, andThen_next, feedAll_singleton, hlast, requestHead_drop_four]

/-- Settles O41 (holds): `receiving_requestHead` for all bytes but the last, `feedAll_requestFrame` for the whole frame. -/
theorem requestFrameIsReceivedAndAnswered : Obligations.RequestFrameIsReceivedAndAnswered := by
  intro s cmd payload code extra hidle hcfg hlen hsink hanswer hx
  have hmax : payload.length ≤ maxPayload := hlen.trans (Params.capacity_le_of_wf hcfg)
  obtain ⟨t, ht, hrecv⟩ := receiving_requestHead cmd hidle hcfg hlen
  obtain ⟨-, htx, hdsp, -⟩ := hrecv.kept
  have hhead : (requestFrame cmd payload).dropLast = requestHead cmd payload := List.dropLast_concat
  refine ⟨⟨requestFrame cmd payload, encodeFrame_of_le cmd hmax, decodeFrame_requestFrame cmd hmax,
    ⟨t, hhead ▸ ht, htx, hdsp⟩, ?_⟩, ?_⟩
  · exact feedAll_requestFrame hidle hcfg hlen hsink hanswer hx
  · exact feedAll_requestFrame (s := s.returning .nothing) hidle hcfg hlen hsink hanswer hx

/-! ### ACK -/

/-- After an acknowledgement the accumulator is 0, so 0x00 is the one checksum that fits (40_checksum.md R72). -/
theorem verifyFrameCrc_ackFrame_append (code z : Byte) (x : List Byte) :
    verifyFrameCrc (ackFrame code x ++ [z]) = (z == 0#8) := by
  have hresidue : crc8 (frameBody (ackLenBias + x.length) code x ++
      [crc8 (frameBody (ackLenBias + x.length) code x)]) = 0#8 :=
    (crc8_append_singleton_eq_zero_iff _ _).mpr rfl
  rw [ackFrame, frameBytes, List.cons_append, List.cons_append, verifyFrameCrc_split, hresidue,
    decide_eq_true (by simp; omega), Bool.true_and, BEq.comm]

/-- FEED_BYTE hands nothing back, so its result stands already where the last operation handed nothing back. -/
theorem exec_feedByte_of_ret {t : State} (h : t.ret = .nothing) (b : Byte) : exec (.feedByte b) t = feed b t := by
  have hret : t.returning .nothing = t := by
    rw [← h]
    rfl
  exact congrArg (feed b) hret

/-- Settles O42 (holds): the acknowledgement is the head of a request whose checksum is 0x00 (`ackFrame_eq_requestHead`). -/
theorem loopedBackAckWaitsForOneByteMore : Obligations.LoopedBackAckWaitsForOneByteMore := by
  intro s code x hidle hcfg hlen
  have hack := ackFrame_eq_requestHead code x
  have hlast : (ackFrame code x).getLast? = some (crc8 (frameBody (ackLenBias + x.length) code x)) :=
    List.getLast?_concat
  generalize crc8 (frameBody (ackLenBias + x.length) code x) = k at hack hlast
  have hsize : (x ++ [k]).length = 1 + x.length := by simp [Nat.add_comm]
  obtain ⟨t, ht, hrecv⟩ := receiving_requestHead (s := s.returning .nothing) code hidle hcfg (hsize.trans_le hlen)
  obtain ⟨-, htx, hdsp, hret, -⟩ := hrecv.kept
  have hfeed := exec_feedByte_of_ret (t := t) hret
  rw [← hack] at ht hrecv
  refine ⟨t, k, ht, hlast, hrecv.st, hrecv.declared.trans hsize, hrecv.command, htx, hdsp,
    fun hsink => ⟨fun z hz => ?_, fun c e hanswer hx => ?_⟩⟩
  · rw [hfeed, hrecv.feed_of_invalid hidle hsink (by simp [verifyFrameCrc_ackFrame_append, hz])]
    rfl
  · have hdrop : (ackFrame code x).drop 4 = x ++ [k] := by rw [hack, requestHead_drop_four]
    rw [hfeed, hrecv.feed_of_valid hidle hsink (by simp [verifyFrameCrc_ackFrame_append]) (hdrop ▸ hanswer) hx, hdrop]
    rfl

end Sys2Proof.Machine
end

section
/-! O32: what FEED_BYTE adds to DSP (43_dispatch_boundary.md R121): only the checksum byte of a valid frame reaches
`Dispatch` (42_frame_receiver.md R108). -/

namespace Sys2Proof.Machine

/-- Under the invariant the buffer holds some frame up to `n` (10_state.md R24). -/
theorem State.exists_buffers_of_inv {s : State} (h : s.Inv) : ∃ frame, s.buffers frame := by
  obtain ⟨-, hfilled, -⟩ := (State.inv_iff rfl).mp h
  obtain ⟨frame, hread⟩ := Memory.exists_readRange_of_filledTo hfilled s.n.toNat 0 (by omega)
  have hlen := Memory.length_of_readRange _ _ _ _ hread
  exact ⟨frame, hlen.symm, hlen ▸ hread⟩

theorem State.getElem?_of_buffers {s : State} {frame : List Byte} (h : s.buffers frame) {i : Nat}
    (hi : i < frame.length) : frame[i]? = s.buf.read i := by
  have hread := (Memory.readRange_eq_some _ _ _).mp h.2 i hi
  rw [← hread, Nat.zero_add]

/-- A rejected length is answered without the DISPATCHER (42_frame_receiver.md R100). -/
theorem rejectLength_keeps_dsp {s t : State} (ht : rejectLength s = .next t) : t.dsp = s.dsp := by
  obtain ⟨-, -, rfl⟩ := State.raiseResponse_eq_next.mp ht
  rfl

/-- Outside WaitChecksum a byte is stored, dropped or rejected, never dispatched. -/
theorem feed_keeps_dsp {s t : State} {b : Byte} (h : s.Inv) (hcheck : s.st ≠ .waitChecksum)
    (ht : feed b s = .next t) : t.dsp = s.dsp := by
  by_cases hst : s.st = .waitLenHigh
  · obtain ⟨hn, lo, hlo⟩ := State.lenHigh_of_inv h hst
    rcases Nat.lt_or_ge s.cfg.capacity (lo.toNat + 256 * b.toNat) with hfull | hfit
    · rw [feed_of_waitLenHigh_of_lt hst hn hlo hfull] at ht
      exact rejectLength_keeps_dsp (s := { s.appended b with len := fromLe16 lo b }) ht
    · exact (feed_silent h (fun _ => hlo) hcheck (fun _ => hfit) ht).2
  · exact (feed_silent (lo := 0#8) h (absurd · hst) hcheck (absurd · hst) ht).2

/-- In WaitChecksum a frame with a wrong checksum is answered without the DISPATCHER. -/
theorem feed_keeps_dsp_of_invalid {s t : State} {b : Byte} {frame : List Byte} (h : s.Inv) (hst : s.st = .waitChecksum)
    (hbuf : s.buffers frame) (hcrc : verifyFrameCrc (frame ++ [b]) = false) (ht : feed b s = .next t) :
    t.dsp = s.dsp := by
  rw [feed_of_waitChecksum_of_invalid hst (Params.capacity_le_of_wf h.1) (State.room_of_inv h) hbuf hcrc] at ht
  obtain ⟨-, -, rfl⟩ := State.raiseResponse_eq_next.mp ht
  rfl

/-- A valid frame is logged once, with the payload between its command and its checksum. -/
theorem feed_logs_of_valid {s t : State} {b : Byte} {frame : List Byte} (h : s.Inv) (hst : s.st = .waitChecksum)
    (hbuf : s.buffers frame) (hcrc : verifyFrameCrc (frame ++ [b]) = true) (hlen : frame.length = 4 + s.len.toNat)
    (ht : feed b s = .next t) : t.dsp = s.dsp ++ [{ cmd := s.cmd, payload := frame.drop 4 }] := by
  rw [feed_of_waitChecksum_of_valid hst (Params.capacity_le_of_wf h.1) (State.room_of_inv h) hbuf hcrc hlen] at ht
  obtain ⟨u, hu, htu⟩ := andThen_eq_next.mp ht
  obtain ⟨code, extra, -, -, -, rfl⟩ := State.dispatch_eq_next.mp hu
  cases htu
  rfl

/-- Settles O32 (holds): R108 reads the checksum first, and R24 ties `cmd` and `len` to the bytes in the buffer. -/
theorem onlyValidFramesReachTheDispatcher : Obligations.OnlyValidFramesReachTheDispatcher := by
  intro s t b h ht
  have hinv : (s.returning .nothing).Inv := State.inv_returning _ h
  have hfeed : feed b (s.returning .nothing) = .next t := ht
  by_cases hst : s.st = .waitChecksum
  · obtain ⟨frame, hbuf⟩ := State.exists_buffers_of_inv h
    cases hcrc : verifyFrameCrc (frame ++ [b]) with
    | false => exact .inl (feed_keeps_dsp_of_invalid (s := s.returning .nothing) hinv hst hbuf hcrc hfeed)
    | true =>
      obtain ⟨-, -, hn, -, -, hcmd, -⟩ := (State.inv_iff hst).mp h
      have hlen : frame.length = 4 + s.len.toNat := hbuf.1.symm.trans hn
      have hbyte : frame[3]? = some s.cmd := (State.getElem?_of_buffers hbuf (by omega)).trans hcmd
      have hpayload : (frame.drop 4).length = s.len.toNat := by rw [List.length_drop]; omega
      exact .inr ⟨hst, frame, hbuf, hcrc, hbyte, hpayload,
        feed_logs_of_valid (s := s.returning .nothing) hinv hst hbuf hcrc hlen hfeed⟩
  · exact .inl (feed_keeps_dsp (s := s.returning .nothing) hinv hst hfeed)

end Sys2Proof.Machine
end

section
/-! O47, O48: RESET and INIT as whole next states (43_dispatch_boundary.md R127, R128). -/

namespace Sys2Proof.Machine

/-- INIT outside its range (43_dispatch_boundary.md R127; log 13). -/
theorem exec_init_of_lt {capacity : Nat} (k : Sink) (context : Token) (s : State) (h : 512 < capacity) :
    exec (.init capacity (some k) context) s = .refused .initRejected :=
  if_neg (Nat.not_le.mpr h)

theorem exec_init_of_no_sink (capacity : Nat) (context : Token) (s : State) :
    exec (.init capacity none context) s = .refused .initRejected := rfl

/-- Settles O47 (holds): RESET is `reinit()` and hands nothing back. -/
theorem resetReinitialisesTheReceiver : Obligations.ResetReinitialisesTheReceiver := exec_reset

/-- Settles O48 (holds): within the range INIT is `State.construct`; outside it, and without a sink, it is refused. -/
theorem initConstructsOrRefuses : Obligations.InitConstructsOrRefuses := fun s capacity k context =>
  ⟨exec_init_of_le k context s, exec_init_of_lt k context s, exec_init_of_no_sink capacity context s⟩

end Sys2Proof.Machine
end

section
/-! O55: the answers of the two DISPATCHERs (43_dispatch_boundary.md R120, R123). -/

namespace Sys2Proof.Machine

/-- R123: STUB accepts CMD_PING and CMD_RESET and no other command. -/
theorem stubAnswer_eq (p : Params) (cmd : Byte) :
    stubAnswer p cmd = if cmd = 0x20#8 ∨ cmd = 0xFF#8 then (p.errOk, []) else (p.errGeneral, []) := by
  by_cases hping : cmd = 0x20#8
  · rw [if_pos (.inl hping)]
    exact if_pos hping
  by_cases hreset : cmd = 0xFF#8
  · rw [if_pos (.inr hreset)]
    exact (if_neg hping).trans (if_pos hreset)
  · rw [if_neg (not_or.mpr ⟨hping, hreset⟩)]
    exact (if_neg hping).trans (if_neg hreset)

/-- Settles O55 (holds): STUB answers by the command alone, and the oracle's extra payload is cut to MAX_ACK_EXTRA. -/
theorem dispatchersAnswerWithinTheirRules : Obligations.DispatchersAnswerWithinTheirRules := by
  refine ⟨fun s cmd payload hstub => ?_, fun s cmd payload horacle => State.answer_of_oracle cmd payload horacle⟩
  have hanswer : s.answer cmd payload = some (stubAnswer s.cfg cmd) := by simp only [State.answer, hstub]
  rw [hanswer, stubAnswer_eq]

end Sys2Proof.Machine
end

section
/-! O54: the block's own two responses, byte for byte (60_exceptions.md R137). -/

namespace Sys2Proof.Machine

/-- No extra payload is within every MAX_ACK_EXTRA, and the length field then counts the error code alone. -/
theorem encodeAck_nil (maxExtra : Nat) (code : Byte) :
    encodeAck maxExtra code [] = .ok [0xA5#8, 0x01#8, 0x00#8, code, crc8 [0x01#8, 0x00#8, code]] := by
  rw [encodeAck_of_le code (Nat.zero_le maxExtra), ackFrame, frameBytes_eq_append]
  rfl

/-- Settles O54 (holds): `encodeAck_nil`, and at the default codes the two checksums computed. -/
theorem blockResponsesAreByteExact : Obligations.BlockResponsesAreByteExact := by
  have hfull : crc8 [0x01#8, 0x00#8, State.reset.cfg.errBufferFull] = 0x62#8 := by decide +kernel
  have hinvalid : crc8 [0x01#8, 0x00#8, State.reset.cfg.errInvalidFrame] = 0x65#8 := by decide +kernel
  refine ⟨fun p => encodeAck_nil p.maxAckExtra p.errBufferFull, ?_, ?_⟩
  · rw [encodeAck_nil, hfull]
    rfl
  · rw [encodeAck_nil, hinvalid]
    rfl

end Sys2Proof.Machine
end
